-- ==== Sys2Proof/Word.lean ====
section
/-! DEFINITION. The widths the spec fixes (00_scope.md R8). -/

namespace Sys2Proof

/-- A byte of the input buffer (10_state.md R25). -/
abbrev Byte := BitVec 8

/-- A calibration coefficient's pattern (10_state.md R30). -/
abbrev Half := BitVec 16

/-- A host data word, a command word and IRES (00_scope.md R8). -/
abbrev Word := BitVec 32

/-- A binary64 register (10_state.md R28, R29). -/
abbrev DWord := BitVec 64

/-- A byte offset of the host register space (20_memory.md R40). -/
abbrev Off := BitVec 12

end Sys2Proof
end

