-- ==== Sys2Proof/Config.lean ====
section
/-! DEFINITION. What an implementation or a platform fixes (00_scope.md R7): the parameters of the block as
plain data, and the OPEN ones as constants with no body, which no proof can see into. -/

namespace Sys2Proof

/-- How `c*x²` is grouped in binary64 (00_scope.md R7, R13; 92_eei_decisions.md D14). -/
inductive SqGroup where
  | squareFirst
  | leftToRight
deriving DecidableEq, Repr

/-- The parameters of one block that its rules read (00_scope.md R7). They are fixed for a run.
DESIGN CHOICE (log entry 1): they stand in State as plain data, so a claim about every state is a
claim about every value of them. -/
structure Params where
  /-- `N_CAL_SLOTS` less one, so that 1 to 4 is exactly what the type holds (R7, D16). -/
  extraSlots : Fin 4
  /-- `SQ_GROUP` (R7, D14). -/
  sqGroup : SqGroup
deriving DecidableEq, Repr

/-- `N_CAL_SLOTS`, the number of calibration slots, 1 to 4 (00_scope.md R7, D16). -/
def Params.nCalSlots (c : Params) : Nat := c.extraSlots.val + 1

/-- The spec's defaults (00_scope.md R7): one slot, SQUARE_FIRST. -/
def Params.default : Params := ⟨0, .squareFirst⟩

namespace Config

/-- `CRC8`, OPEN (00_scope.md R7; 43_comp_humidity_light.md R146). A free value: log entry 2. -/
opaque crc8 : Byte → Byte → Byte

/-- The sign (bit 51) and payload (bits 50 to 0) of a NaN that an operation produces. R12 gives a NaN no
encoding. A free value, log entry 3. No register ever receives one (42 R126, 43 R142, R153). -/
opaque nanBits : BitVec 52

/-- `SCP_BASE`, OPEN: where the block sits in the host's address map (20_memory.md R40, R49). -/
opaque scpBase : Nat

/-- `ADDR_PT`, OPEN: a 7-bit bus address (00_scope.md R7, D34), one for each instance of the sensor, an instance being
known by its slot.
DESIGN CHOICE (log entry 22). -/
opaque addrPt : Fin 4 → BitVec 7

/-- `ADDR_RH`, OPEN: a 7-bit bus address (00_scope.md R7, D34). -/
opaque addrRh : BitVec 7

/-- `ADDR_LUX`, OPEN: a 7-bit bus address (00_scope.md R7, D34). -/
opaque addrLux : BitVec 7

/-- `RH_BASE_REG`, OPEN: the register the humidity result is read from (00_scope.md R7, D34). -/
opaque rhBaseReg : Byte

/-- `LUX_ATIME`, OPEN: the value of the colour device's integration-time register (00_scope.md R7, D34). -/
opaque luxAtime : Byte

/-- `LUX_GAIN`, OPEN: the value of the colour device's gain register (00_scope.md R7, D34). -/
opaque luxGain : Byte

/-- `T_PT_CONV`, OPEN: milliseconds the host waits before it reads the pressure device (R7, 70 R226). -/
opaque tPtConv : Nat

/-- How far `T_RH_SETTLE` exceeds its bound. -/
opaque tRhSettleExtra : Nat

/-- How far `T_LUX_PON` exceeds its bound. -/
opaque tLuxPonExtra : Nat

/-- How far `T_LUX_SETTLE` exceeds its bound. -/
opaque tLuxSettleExtra : Nat

/-- `ROUND2`, OPEN: the host's rounding of a binary64 value to hundredths (00_scope.md R7, D23). -/
opaque round2 : DWord → Int

/-- The value in a host program's expression of byte `i` of a buffer where the read did not return it. A free value: log entry 15. -/
opaque unreceivedByte (buf i : Nat) : Byte

/-- `T_RH_SETTLE`, at least 15 ms (00_scope.md R7; 70_reset_and_hazards.md R220). -/
def tRhSettle : Nat := 15 + tRhSettleExtra

/-- `T_LUX_PON`, at least 3 ms (00_scope.md R7; 70_reset_and_hazards.md R220). -/
def tLuxPon : Nat := 3 + tLuxPonExtra

/-- `T_LUX_SETTLE`, at least 10 ms (00_scope.md R7; 70_reset_and_hazards.md R220). -/
def tLuxSettle : Nat := 10 + tLuxSettleExtra

end Config

end Sys2Proof
end

