-- ==== Sys2Proof/Syntax.lean ====
section
/-! DEFINITION. The commands of the block: one constructor per row of spec/opcode_table.json
(30_encoding.md R74). A field keeps every value its bits can hold; WellFormed says which are legal. -/

namespace Sys2Proof

/-- A command (30_encoding.md R74). `off` is OFF, a byte index into IBUF, 0 to 31; `slot` is SLOT, a
calibration slot, 0 to 3 (R73). -/
inductive Instr where
  | nop
  | decBe16 (off : Fin 32)
  | decLe16 (off : Fin 32)
  | dec20 (off : Fin 32)
  | toS16
  | calLoad (slot : Fin 4)
  | calRelease (slot : Fin 4)
  | compPt (slot : Fin 4)
  | compRh
  | compLux
  | crcRh
deriving DecidableEq, Repr

end Sys2Proof
end

