-- ==== Sys2Proof/WellFormed.lean ====
section
/-! DEFINITION. Which commands have legal fields: the value checks of 30_encoding.md R75. -/

namespace Sys2Proof

/-- A byte offset fits when its `w` bytes lie in the 24 bytes of IBUF (R75: OFF+2 > 24, OFF+3 > 24). -/
def offFits (off : Fin 32) (w : Nat) : Bool := off.val + w ≤ 24

/-- A slot exists when it is below `N_CAL_SLOTS` (R73, R75). -/
def slotExists (cfg : Params) (slot : Fin 4) : Bool := slot.val < cfg.nCalSlots

/-- The value checks of 30_encoding.md R75 on the fields of a command. -/
def Instr.wf (cfg : Params) : Instr → Bool
  | .nop => true
  | .decBe16 off => offFits off 2
  | .decLe16 off => offFits off 2
  | .dec20 off => offFits off 3
  | .toS16 => true
  | .calLoad slot => slotExists cfg slot
  | .calRelease slot => slotExists cfg slot
  | .compPt slot => slotExists cfg slot
  | .compRh => true
  | .compLux => true
  | .crcRh => true

end Sys2Proof
end

