-- ==== Sys2Proof/Decode.lean ====
section
/-! DEFINITION. From a command word to a command and back (30_encoding.md R70 to R76). -/

namespace Sys2Proof

/-- Why a word is no command; each raises ILLEGAL_CMD (30_encoding.md R75, R76). -/
inductive DecodeError where
  /-- OPC is not in the map of R74. -/
  | reservedOpcode
  /-- A bit the format fixes at zero is one (R72). -/
  | reservedBits
  /-- OFF or SLOT is outside the command's legal range (R75). -/
  | operandRange
deriving DecidableEq, Repr

/-- OPC, bits [7:0] (R71). -/
def opcField (w : Word) : Byte := w.extractLsb' 0 8

/-- OFF, bits [12:8] (R71, R73). -/
def offField (w : Word) : Fin 32 := (w.extractLsb' 8 5).toFin

/-- SLOT, bits [17:16] (R71, R73). -/
def slotField (w : Word) : Fin 4 := (w.extractLsb' 16 2).toFin

/-- The command `i` when the bits its format fixes are zero. -/
def whenZero (fixedZero : Bool) (i : Instr) : Except DecodeError Instr :=
  if fixedZero then .ok i else .error .reservedBits

/-- Format N: bits [31:8] are zero (R72). -/
def fixedN (w : Word) : Bool := w.extractLsb' 8 24 == 0#24

/-- Format O: bits [31:13] are zero (R72). -/
def fixedO (w : Word) : Bool := w.extractLsb' 13 19 == 0#19

/-- Format S: bits [31:18] and [15:8] are zero (R72). -/
def fixedS (w : Word) : Bool := w.extractLsb' 18 14 == 0#14 && w.extractLsb' 8 8 == 0#8

/-- OPC and the fixed bits (R74, R75): the command a word spells, its field values not yet checked. -/
def parse (w : Word) : Except DecodeError Instr :=
  let opc := opcField w
  if opc = 0x00#8 then whenZero (fixedN w) .nop
  else if opc = 0x01#8 then whenZero (fixedO w) (.decBe16 (offField w))
  else if opc = 0x02#8 then whenZero (fixedO w) (.decLe16 (offField w))
  else if opc = 0x03#8 then whenZero (fixedO w) (.dec20 (offField w))
  else if opc = 0x04#8 then whenZero (fixedN w) .toS16
  else if opc = 0x10#8 then whenZero (fixedS w) (.calLoad (slotField w))
  else if opc = 0x11#8 then whenZero (fixedS w) (.calRelease (slotField w))
  else if opc = 0x20#8 then whenZero (fixedS w) (.compPt (slotField w))
  else if opc = 0x21#8 then whenZero (fixedN w) .compRh
  else if opc = 0x22#8 then whenZero (fixedN w) .compLux
  else if opc = 0x23#8 then whenZero (fixedN w) .crcRh
  else .error .reservedOpcode

/-- Decode (R75), total on every word: the command with legal fields, or the reason there is none. -/
def decode (cfg : Params) (w : Word) : Except DecodeError Instr :=
  match parse w with
  | .error e => .error e
  | .ok i => if i.wf cfg then .ok i else .error .operandRange

/-- Format N's layout (R72): twenty-four zeros, then OPC. -/
def layoutN (opc : Byte) : Word := 0#24 ++ opc

/-- Format O's layout (R72): nineteen zeros, OFF, OPC. -/
def layoutO (off : Fin 32) (opc : Byte) : Word := 0#19 ++ (BitVec.ofFin off : BitVec 5) ++ opc

/-- Format S's layout (R72): fourteen zeros, SLOT, eight zeros, OPC. -/
def layoutS (slot : Fin 4) (opc : Byte) : Word := 0#14 ++ (BitVec.ofFin slot : BitVec 2) ++ 0#8 ++ opc

/-- The word of a command (R71, R72, R74). -/
def encode : Instr → Word
  | .nop => layoutN 0x00#8
  | .decBe16 off => layoutO off 0x01#8
  | .decLe16 off => layoutO off 0x02#8
  | .dec20 off => layoutO off 0x03#8
  | .toS16 => layoutN 0x04#8
  | .calLoad slot => layoutS slot 0x10#8
  | .calRelease slot => layoutS slot 0x11#8
  | .compPt slot => layoutS slot 0x20#8
  | .compRh => layoutN 0x21#8
  | .compLux => layoutN 0x22#8
  | .crcRh => layoutN 0x23#8

/-- A row of spec/opcode_table.json: the bits under `mask` are those of `pattern`. -/
structure Row where
  pattern : Word
  mask : Word
deriving DecidableEq, Repr

/-- A word is in a row when its bits under the mask are the row's. -/
def Row.holds (r : Row) (w : Word) : Bool := w &&& r.mask == r.pattern

/-- The row of spec/opcode_table.json a command belongs to, as the table prints it. -/
def Instr.row : Instr → Row
  | .nop => ⟨0x00000000#32, 0xFFFFFFFF#32⟩
  | .decBe16 _ => ⟨0x00000001#32, 0xFFFFE0FF#32⟩
  | .decLe16 _ => ⟨0x00000002#32, 0xFFFFE0FF#32⟩
  | .dec20 _ => ⟨0x00000003#32, 0xFFFFE0FF#32⟩
  | .toS16 => ⟨0x00000004#32, 0xFFFFFFFF#32⟩
  | .calLoad _ => ⟨0x00000010#32, 0xFFFCFFFF#32⟩
  | .calRelease _ => ⟨0x00000011#32, 0xFFFCFFFF#32⟩
  | .compPt _ => ⟨0x00000020#32, 0xFFFCFFFF#32⟩
  | .compRh => ⟨0x00000021#32, 0xFFFFFFFF#32⟩
  | .compLux => ⟨0x00000022#32, 0xFFFFFFFF#32⟩
  | .crcRh => ⟨0x00000023#32, 0xFFFFFFFF#32⟩

/-- The eleven rows of spec/opcode_table.json, in the table's order. -/
def opcodeTable : List Row :=
  [Instr.row .nop, Instr.row (.decBe16 0), Instr.row (.decLe16 0), Instr.row (.dec20 0), Instr.row .toS16,
    Instr.row (.calLoad 0), Instr.row (.calRelease 0), Instr.row (.compPt 0), Instr.row .compRh,
    Instr.row .compLux, Instr.row .crcRh]

/-- The word that a row's bits `w`, `nbits` of them, stand for; a command has one length, 32 bits (R70), so
bits beyond 32 make it no command. -/
def tableWord (nbits w : Nat) : Option Word :=
  let bits := w % 2 ^ nbits
  if bits < 2 ^ 32 then some (BitVec.ofNat 32 bits) else none

/-- What the decoder reads from a row's bits, under the default parameters (log entry 13). -/
def decodeTableWord (nbits w : Nat) : Option Instr :=
  match tableWord nbits w with
  | none => none
  | some word =>
    match decode Params.default word with
    | .ok i => some i
    | .error _ => none

end Sys2Proof
end

