-- ==== Sys2Proof/Machine/Float.lean ====
section
/-! DEFINITION. IEEE 754 binary64 as 00_scope.md R12 and R13 use it: one exact result, rounded once to
nearest, ties to even, with gradual underflow. Log entry 20 says how the encoding is read. -/

namespace Sys2Proof.Machine

/-- A binary64 value. Every finite one is a whole multiple of 2^-1074, so it is a sign and the magnitude
in units of 2^-1074. The sign is kept apart because R12 tells +0.0 from -0.0. -/
inductive F64 where
  | nan
  | inf (neg : Bool)
  | fin (neg : Bool) (mag : Nat)
deriving DecidableEq, Repr

namespace F64

/-- 1.0 in units of 2^-1074. -/
@[irreducible] def one : Nat := 2 ^ 1074

/-- 2^1024 in units of 2^-1074: the first magnitude past the finite range. -/
@[irreducible] def limit : Nat := 2 ^ 2098

/-- The spacing of binary64 numbers around a magnitude: one unit among subnormals (gradual underflow),
and 53 significant bits above. -/
def spacing (mag : Nat) : Nat := 2 ^ (Nat.log2 mag - 52)

/-- The magnitude `num / den` (in units, `den` not 0) rounded once to the binary64 grid: nearest, ties to
the even multiple (R12 roundTiesToEven). -/
def roundMag (num den : Nat) : Nat :=
  let step := den * spacing (num / den)
  let q := num / step
  let r := num % step
  (if step < 2 * r ∨ (2 * r = step ∧ q % 2 = 1) then q + 1 else q) * spacing (num / den)

/-- The exact real of sign `neg` and magnitude `num / den` as a binary64 value: rounded once, infinite
where the rounded magnitude leaves the finite range. -/
def round (neg : Bool) (num den : Nat) : F64 :=
  let m := roundMag num den
  if m < limit then .fin neg m else .inf neg

/-- Sign change. -/
def neg : F64 → F64
  | .nan => .nan
  | .inf s => .inf (!s)
  | .fin s m => .fin (!s) m

/-- `fadd` (R12). An exact zero sum of opposite signs is +0.0, as roundTiesToEven has it. -/
def fadd : F64 → F64 → F64
  | .nan, _ => .nan
  | .inf _, .nan => .nan
  | .inf s, .inf t => if s = t then .inf s else .nan
  | .inf s, .fin _ _ => .inf s
  | .fin _ _, .nan => .nan
  | .fin _ _, .inf t => .inf t
  | .fin s m, .fin t n =>
    if s = t then round s (m + n) 1
    else if m = n then .fin false 0
    else if n < m then round s (m - n) 1
    else round t (n - m) 1

/-- `fsub` (R12): the exact difference, rounded once. -/
def fsub (a b : F64) : F64 := fadd a (neg b)

/-- `fmul` (R12). -/
def fmul : F64 → F64 → F64
  | .nan, _ => .nan
  | .inf _, .nan => .nan
  | .inf s, .inf t => .inf (s != t)
  | .inf s, .fin t n => if n = 0 then .nan else .inf (s != t)
  | .fin _ _, .nan => .nan
  | .fin s m, .inf t => if m = 0 then .nan else .inf (s != t)
  | .fin s m, .fin t n => round (s != t) (m * n) one

/-- `fdiv` (R12). -/
def fdiv : F64 → F64 → F64
  | .nan, _ => .nan
  | .inf _, .nan => .nan
  | .inf _, .inf _ => .nan
  | .inf s, .fin t _ => .inf (s != t)
  | .fin _ _, .nan => .nan
  | .fin s _, .inf t => .fin (s != t) 0
  | .fin s m, .fin t n =>
    if n = 0 then (if m = 0 then .nan else .inf (s != t))
    else round (s != t) (m * one) n

/-- `i2f` (R12, D15), exact for the integers the block converts, all below 2^53 in magnitude. -/
def i2f (n : Int) : F64 := .fin (decide (n < 0)) (n.natAbs * one)

/-- A literal that is a natural number, such as 16384.0 (R12: exactly representable). -/
def lit (n : Nat) : F64 := .fin false (n * one)

/-- `feq` (R12): IEEE equality, so +0.0 equals -0.0 and a NaN equals nothing. -/
def feq : F64 → F64 → Bool
  | .inf s, .inf t => s == t
  | .fin s m, .fin t n => (m == 0 && n == 0) || (s == t && m == n)
  | _, _ => false

/-- A finite value in units of 2^-1074, as an integer; both zeros are 0. -/
def signed (neg : Bool) (mag : Nat) : Int := if neg then -(mag : Int) else (mag : Int)

/-- `flt` (R12): IEEE less-than, false where a NaN is involved. -/
def flt : F64 → F64 → Bool
  | .nan, _ => false
  | .inf _, .nan => false
  | .inf s, .inf t => s && !t
  | .inf s, .fin _ _ => s
  | .fin _ _, .nan => false
  | .fin _ _, .inf t => !t
  | .fin s m, .fin t n => decide (signed s m < signed t n)

/-- Neither NaN nor infinite (43_comp_humidity_light.md R150, R153). -/
def finite : F64 → Bool
  | .nan => false
  | .inf _ => false
  | .fin _ _ => true

/-- `signbit` (R12): bit 63 of the encoding. -/
def signbit : F64 → Bool
  | .nan => Config.nanBits.getLsbD 51
  | .inf s => s
  | .fin s _ => s

/-- The value of a 64-bit pattern (R12): sign bit 63, exponent bits [62:52] with bias 1023, fraction bits
[51:0]. -/
def ofBits (b : DWord) : F64 :=
  let s := b.getLsbD 63
  let e := (b.extractLsb' 52 11).toNat
  let f := (b.extractLsb' 0 52).toNat
  if e = 2047 then (if f = 0 then .inf s else .nan)
  else if e = 0 then .fin s f
  else .fin s ((2 ^ 52 + f) * 2 ^ (e - 1))

/-- The sign as a number to add to a pattern's other bits. -/
def signPart (neg : Bool) : Nat := if neg then 2 ^ 63 else 0

/-- Bits [62:0] of a finite magnitude on the binary64 grid: with k the shift of its spacing, the exponent field
and the leading bit of the significand add up to k·2^52 + mag/2^k, in the subnormal range too. -/
def magBits (mag : Nat) : Nat :=
  let k := Nat.log2 mag - 52
  k * 2 ^ 52 + mag / 2 ^ k

/-- The encoding of a value (R12). A NaN's sign and payload are free (log entry 3). -/
def toBits : F64 → DWord
  | .nan => Config.nanBits.extractLsb' 51 1 ++ 0xFFF#12 ++ Config.nanBits.extractLsb' 0 51
  | .inf s => BitVec.ofNat 64 (signPart s + 0x7FF0000000000000)
  | .fin s m => BitVec.ofNat 64 (signPart s + magBits m)

/-- `c*x²` as SQ_GROUP groups it (R13; 42_comp_pressure.md R123). -/
def sq (g : SqGroup) (c x : F64) : F64 :=
  match g with
  | .squareFirst => fmul c (fmul x x)
  | .leftToRight => fmul (fmul c x) x

/-- `clamp01` (43_comp_humidity_light.md R143). -/
def clamp01 (h : F64) : F64 :=
  let h0 := if flt h (lit 0) then lit 0 else h
  if flt (lit 100) h0 then lit 100 else h0

end F64

end Sys2Proof.Machine
end

