-- ==== Sys2Proof/Machine/State.lean ====
section
/-! DEFINITION. The state of the block (10_state.md R20), as plain data, and its reset value (R35). -/

namespace Sys2Proof.Machine

/-- The error codes of STATUS.ERR (60_exceptions.md R170). Codes 7 to 15 are never produced, so they are no
constructors. -/
inductive ErrCode where
  | ok
  | incompleteCal
  | incompleteSample
  | notCalibrated
  | calLocked
  | illegalCmd
  | badCoeff
deriving DecidableEq, Repr

/-- A calibration slot (10_state.md R30): VALID and the twelve coefficients T1 T2 T3 P1 to P9, each as its
16-bit pattern. -/
structure CalSlot where
  valid : Bool
  coef : Vector Half 12
deriving DecidableEq, Repr

/-- A slot at reset and after CAL_RELEASE (10_state.md R30; 41_calibration.md R115). -/
def CalSlot.empty : CalSlot := ⟨false, Vector.replicate 12 0#16⟩

/-- What comes in at the port: a host read or write of a 32-bit word at a byte offset (20_memory.md R44, R45),
or a pulse of the platform reset input (70_reset_and_hazards.md R200; log entry 5). -/
inductive PortEvent where
  | read (off : Off)
  | write (off : Off) (v : Word)
  | reset
deriving DecidableEq, Repr

/-- The state of the block (10_state.md R20), with the model's own fields `cfg`, `port` and `observed` (log
entries 1, 4 and 7). ID is hard-wired (R21) and CMD holds no state (R20), so neither is a field. -/
structure State where
  /-- The block's parameters, fixed for a run (00_scope.md R7). -/
  cfg : Params
  /-- STATUS.ERR: the code of the most recent command (10_state.md R23). -/
  err : ErrCode
  /-- STATUS.ERRS, sticky (R23). -/
  errs : Bool
  /-- STATUS.CRC_VALID (R23). -/
  crcValid : Bool
  /-- STATUS.CRC_T_OK (R23). -/
  crcTOk : Bool
  /-- STATUS.CRC_H_OK (R23). -/
  crcHOk : Bool
  /-- IBUF[0..23] (R25). -/
  ibuf : Vector Byte 24
  /-- IBUF_LEN (R26). -/
  ibufLen : BitVec 6
  /-- IRES (R27). -/
  ires : Word
  /-- RES[0..8], binary64 encodings (R28). -/
  res : Vector DWord 9
  /-- RES_VALID[8:0] (R28). -/
  resValid : BitVec 9
  /-- LUX_KR (R29). -/
  luxKr : DWord
  /-- LUX_KC (R29). -/
  luxKc : DWord
  /-- CAL[s] (R30). Slots at and above N_CAL_SLOTS do not exist and stay empty (log entry 9). -/
  cal : Vector CalSlot 4
  /-- What is still to come in at the port, first to come first. -/
  port : List PortEvent
  /-- The values the host's reads have returned, oldest first (00_scope.md R18). -/
  observed : List Word
deriving DecidableEq, Repr

/-- Why the machine stops. -/
inductive Fault where
  /-- A host access whose offset has bits [1:0] not 0: the interface has no such access, and the spec gives it no
  step (20_memory.md R42, 93_implementation_defined.md I15). Raised by a step over such an access. Safe. -/
  | misalignedAccess (off : Off)
deriving DecidableEq, Repr

/-- Why a command has no meaning. -/
inductive Refusal where
  /-- The command's arm has no meaning yet. Raised by exec's arm alone. Safe. -/
  | notModelled (mnemonic : String)
deriving DecidableEq, Repr

/-- The machine right after reset (10_state.md R35), with the spec's default parameters and nothing at the port
(log entries 1, 4 and 7). -/
def State.reset : State where
  cfg := Params.default
  err := .ok
  errs := false
  crcValid := false
  crcTOk := false
  crcHOk := false
  ibuf := Vector.replicate 24 0#8
  ibufLen := 0#6
  ires := 0#32
  res := Vector.replicate 9 0#64
  resValid := 0#9
  luxKr := 0xBFD4C73ABC947065#64
  luxKc := 0x3FF94100E6AFCCE2#64
  cal := Vector.replicate 4 CalSlot.empty
  port := []
  observed := []

end Sys2Proof.Machine
end

