-- ==== Sys2Proof/Machine/Operands.lean ====
section
/-! DEFINITION. The operands of the commands: bytes of IBUF, the Register Codec's conversions (40_codec.md) and the
coefficients as the compensation reads them (10_state.md R30; 42_comp_pressure.md R121). -/

namespace Sys2Proof.Machine

/-- IBUF[i] (00_scope.md R11). No command reads past byte 23 (30_encoding.md R75); there the answer is 0. -/
def State.byte (s : State) (i : Nat) : Byte := (s.ibuf[i]?).getD 0#8

/-- `decode_be16` (40_codec.md R101): (hi << 8) | lo. -/
def be16 (hi lo : Byte) : Half := hi ++ lo

/-- `decode_le16` (40_codec.md R102): lo | (hi << 8). -/
def le16 (lo hi : Byte) : Half := hi ++ lo

/-- `decode_20bit` (40_codec.md R103): (b0 << 12) | (b1 << 4) | (b2 >> 4), the low nibble of b2 dropped. -/
def dec20 (b0 b1 b2 : Byte) : BitVec 20 := b0 ++ b1 ++ b2.extractLsb' 4 4

/-- `to_signed16` (00_scope.md R10; 40_codec.md R104): v - 65536 if v > 32767, else v. -/
def toSigned16 (v : Half) : Int := if 32767 < v.toNat then (v.toNat : Int) - 65536 else (v.toNat : Int)

/-- `enc16` (40_codec.md R105): x mod 65536. -/
def enc16 (x : Int) : Half := BitVec.ofInt 16 x

/-- The unsigned coefficients are T1 and P1, k = 0 and k = 3 (10_state.md R30). -/
def coefUnsigned (k : Fin 12) : Bool := k == 0 || k == 3

/-- A coefficient as its type in 10_state.md R30: u16 for T1 and P1, i16 for the rest. -/
def CalSlot.value (c : CalSlot) (k : Fin 12) : Int :=
  if coefUnsigned k then ((c.coef[k]).toNat : Int) else toSigned16 c.coef[k]

/-- A coefficient as the compensation reads it, converted exactly (42_comp_pressure.md R121). -/
def CalSlot.num (c : CalSlot) (k : Fin 12) : F64 := F64.i2f (c.value k)

/-- What CAL_s_k reads (20_memory.md R40; 41_calibration.md R116): T1 and P1 zero-extended, the rest
sign-extended. -/
def CalSlot.readback (c : CalSlot) (k : Fin 12) : Word :=
  if coefUnsigned k then (c.coef[k]).zeroExtend 32 else (c.coef[k]).signExtend 32

/-- The big-endian pair at IBUF[i] (20_memory.md R48). -/
def State.be16At (s : State) (i : Nat) : Half := be16 (s.byte i) (s.byte (i + 1))

/-- The little-endian pair at IBUF[i] (20_memory.md R48). -/
def State.le16At (s : State) (i : Nat) : Half := le16 (s.byte i) (s.byte (i + 1))

/-- The packed 20-bit value at IBUF[i] (20_memory.md R48). -/
def State.dec20At (s : State) (i : Nat) : BitVec 20 := Machine.dec20 (s.byte i) (s.byte (i + 1)) (s.byte (i + 2))

/-- The calibration block in IBUF (41_calibration.md R110, R111): word k is the little-endian pair at IBUF[2k]. -/
def State.calBlock (s : State) : Vector Half 12 := Vector.ofFn fun k : Fin 12 => s.le16At (2 * k.val)

end Sys2Proof.Machine
end

