-- ==== Sys2Proof/Machine/Flags.lean ====
section
/-! DEFINITION. STATUS and RES_VALID, the only flag-like state (10_state.md R23, R24, R28). -/

namespace Sys2Proof.Machine

/-- The number of an error code (60_exceptions.md R170). -/
def ErrCode.code : ErrCode → BitVec 4
  | .ok => 0#4
  | .incompleteCal => 1#4
  | .incompleteSample => 2#4
  | .notCalibrated => 3#4
  | .calLocked => 4#4
  | .illegalCmd => 5#4
  | .badCoeff => 6#4

/-- Slot `k`'s bit of CAL_VALID: its VALID, and 0 for a slot at or above N_CAL_SLOTS (10_state.md R23). -/
def State.calValidBit (s : State) (k : Fin 4) : Bool := decide (k.val < s.cfg.nCalSlots) && (s.cal[k]).valid

/-- STATUS.CAL_VALID, bit k for slot k (10_state.md R23). -/
def State.calValid (s : State) : BitVec 4 :=
  BitVec.ofBool (s.calValidBit 3) ++ BitVec.ofBool (s.calValidBit 2) ++ BitVec.ofBool (s.calValidBit 1) ++
    BitVec.ofBool (s.calValidBit 0)

/-- The whole STATUS register (10_state.md R23): reserved [31:20], CAL_VALID, reserved [15:8], CRC_H_OK,
CRC_T_OK, CRC_VALID, ERRS, ERR. -/
def State.status (s : State) : Word :=
  0#12 ++ s.calValid ++ 0#8 ++ BitVec.ofBool s.crcHOk ++ BitVec.ofBool s.crcTOk ++ BitVec.ofBool s.crcValid ++
    BitVec.ofBool s.errs ++ s.err.code

/-- RES_VALID after COMP_PT: bits 0, 1 and 8 (42_comp_pressure.md R120). -/
def validPt : BitVec 9 := 0x103#9

/-- RES_VALID after COMP_RH: bits 0 and 2 (43_comp_humidity_light.md R140). -/
def validRh : BitVec 9 := 0x005#9

/-- RES_VALID after COMP_LUX: bits 3 to 7 (43_comp_humidity_light.md R150). -/
def validLux : BitVec 9 := 0x0F8#9

/-- Result k is present: RES_VALID[k] is 1 (10_state.md R28). -/
def State.present (s : State) (k : Fin 9) : Bool := s.resValid.getLsbD k.val

/-- Result k, or the absence marker (00_scope.md R18; 10_state.md R28). -/
def State.result (s : State) (k : Fin 9) : Option DWord := if s.present k then some s.res[k] else none

/-- The measurement a program can see: the results whose valid bit is 1 (00_scope.md R18).
DESIGN CHOICE (log entry 21): after COMP_PT this includes index 8, t_fine, as R18's words have it, though
42_comp_pressure.md R125 says that RES[8] is not a measurement channel. -/
def State.measurement (s : State) : List (Fin 9 × DWord) :=
  (List.finRange 9).filterMap fun k => (s.result k).map fun v => (k, v)

end Sys2Proof.Machine
end

