-- ==== Sys2Proof/Machine/RegMap.lean ====
section
/-! DEFINITION. The register map of the host register space (20_memory.md R40). -/

namespace Sys2Proof.Machine

/-- A register of the map (20_memory.md R40). -/
inductive Reg where
  | id
  | cmd
  | status
  | ibufLen
  | ibufW (k : Fin 6)
  | ires
  | resValid
  | luxKrLo
  | luxKrHi
  | luxKcLo
  | luxKcHi
  | resLo (k : Fin 9)
  | resHi (k : Fin 9)
  | cal (s : Fin 4) (k : Fin 12)
deriving DecidableEq, Repr

/-- The byte offset of a register (R40). -/
def Reg.offsetNat : Reg → Nat
  | .id => 0x000
  | .cmd => 0x004
  | .status => 0x008
  | .ibufLen => 0x00C
  | .ibufW k => 0x010 + 4 * k.val
  | .ires => 0x028
  | .resValid => 0x02C
  | .luxKrLo => 0x030
  | .luxKrHi => 0x034
  | .luxKcLo => 0x038
  | .luxKcHi => 0x03C
  | .resLo k => 0x040 + 8 * k.val
  | .resHi k => 0x044 + 8 * k.val
  | .cal s k => 0x100 + 0x40 * s.val + 4 * k.val

/-- The 12-bit offset of a register (R40). -/
def Reg.offset (r : Reg) : Off := BitVec.ofNat 12 r.offsetNat

/-- The registers there are: the calibration registers of slots below N_CAL_SLOTS, and all the others (R40). -/
def Reg.present (cfg : Params) : Reg → Bool
  | .cal s _ => slotExists cfg s
  | _ => true

/-- Bits [1:0] of the offset are zero: the only accesses there are (R42). -/
def aligned (off : Off) : Bool := off.extractLsb' 0 2 == 0#2

/-- The registers at 0x000 to 0x00C and 0x028 to 0x03C, which have an offset of their own. -/
def Reg.singles : List Reg :=
  [.id, .cmd, .status, .ibufLen, .ires, .resValid, .luxKrLo, .luxKrHi, .luxKcLo, .luxKcHi]

/-- The register at an aligned offset, under `cfg`; none at a reserved one (R40, R41). -/
def Reg.at (cfg : Params) (off : Off) : Option Reg :=
  let n := off.toNat
  if h : 0x010 ≤ n ∧ n < 0x028 then some (.ibufW ⟨(n - 0x010) / 4, by omega⟩)
  else if h : 0x040 ≤ n ∧ n < 0x088 then
    if n % 8 = 0 then some (.resLo ⟨(n - 0x040) / 8, by omega⟩) else some (.resHi ⟨(n - 0x040) / 8, by omega⟩)
  else if h : 0x100 ≤ n ∧ n < 0x200 then
    if hk : (n % 0x40) / 4 < 12 then
      let slot : Fin 4 := ⟨(n - 0x100) / 0x40, by omega⟩
      if slotExists cfg slot then some (.cal slot ⟨(n % 0x40) / 4, hk⟩) else none
    else none
  else Reg.singles.find? fun r => r.offsetNat == n

end Sys2Proof.Machine
end

