-- ==== Sys2Proof/Machine/Ops.lean ====
section
/-! DEFINITION. The named operations over the block's registers: updates, raising an error (60_exceptions.md R171),
and what a host read and a host write of a register do (20_memory.md R40, R41, R44, R45). -/

namespace Sys2Proof.Machine

/-- What a step or a command answers. -/
abbrev Answer := Host.Outcome State Fault Refusal

/-- ERR <- OK, the end of a command that raises nothing (00_scope.md R14; 44_control.md R160). -/
def State.setOk (s : State) : State := { s with err := .ok }

/-- ERR <- E and ERRS <- 1 (60_exceptions.md R171). -/
def State.setErr (s : State) (e : ErrCode) : State := { s with err := e, errs := true }

/-- ERRS <- 0 (20_memory.md R45). -/
def State.clearErrs (s : State) : State := { s with errs := false }

/-- IRES <- v (10_state.md R27). -/
def State.setIres (s : State) (v : Word) : State := { s with ires := v }

/-- RES_VALID <- v (10_state.md R28). -/
def State.setResValid (s : State) (v : BitVec 9) : State := { s with resValid := v }

/-- CRC_VALID, CRC_T_OK and CRC_H_OK (43_comp_humidity_light.md R145). -/
def State.setCrc (s : State) (valid tOk hOk : Bool) : State := { s with crcValid := valid, crcTOk := tOk, crcHOk := hOk }

/-- CAL[k] <- c (10_state.md R30). -/
def State.setCal (s : State) (k : Fin 4) (c : CalSlot) : State := { s with cal := s.cal.set k c }

/-- IBUF_LEN <- v (20_memory.md R45). -/
def State.setIbufLen (s : State) (v : BitVec 6) : State := { s with ibufLen := v }

/-- IBUF[i] <- b (20_memory.md R45). -/
def State.setByte (s : State) (i : Fin 24) (b : Byte) : State := { s with ibuf := s.ibuf.set i b }

/-- LUX_KR <- v (20_memory.md R45). -/
def State.setLuxKr (s : State) (v : DWord) : State := { s with luxKr := v }

/-- LUX_KC <- v (20_memory.md R45). -/
def State.setLuxKc (s : State) (v : DWord) : State := { s with luxKc := v }

/-- What is left to come in at the port. -/
def State.setPort (s : State) (p : List PortEvent) : State := { s with port := p }

/-- A host read has returned `v` (00_scope.md R18). -/
def State.observe (s : State) (v : Word) : State := { s with observed := s.observed ++ [v] }

/-- `raise E` (00_scope.md R11; 60_exceptions.md R171): ERR and ERRS, and nothing else. The clearing writes that
the rule names are in the state it is given. -/
def raise (e : ErrCode) (s : State) : Answer := .next (s.setErr e)

/-- A command that raises nothing ends with ERR <- OK (00_scope.md R14). There is no return from an error: the next
command overwrites ERR, and ERRS stays (60_exceptions.md R178). -/
def complete (s : State) : Answer := .next s.setOk

/-- The slot checks of a command of format S (30_encoding.md R73, R75): it runs on a slot that exists, and raises
ILLEGAL_CMD on any other. -/
def onSlot (slot : Fin 4) (s : State) (run : CalSlot → Answer) : Answer :=
  if slotExists s.cfg slot then run s.cal[slot] else raise .illegalCmd s

/-- The offset checks of DEC_BE16, DEC_LE16 and DEC_20 over `w` bytes: ILLEGAL_CMD where the bytes pass IBUF
(30_encoding.md R75), then INCOMPLETE_SAMPLE where they pass IBUF_LEN (40_codec.md R100). -/
def onBytes (off : Fin 32) (w : Nat) (s : State) (run : Answer) : Answer :=
  if offFits off w then
    if s.ibufLen.toNat < off.val + w then raise .incompleteSample s else run
  else raise .illegalCmd s

/-- The length check of a fixed-length command: `e` unless IBUF_LEN is exactly `n` (60_exceptions.md R172). -/
def onLength (n : Nat) (e : ErrCode) (s : State) (run : Answer) : Answer :=
  if s.ibufLen.toNat = n then run else raise e s

/-- Byte 4k+j of IBUF, as an index (20_memory.md R43). -/
def byteIndex (k : Fin 6) (j : Fin 4) : Fin 24 := ⟨4 * k.val + j.val, by omega⟩

/-- What IBUF_Wk reads: IBUF[4k] in bits [7:0] up to IBUF[4k+3] in bits [31:24] (20_memory.md R43). -/
def State.ibufWord (s : State) (k : Fin 6) : Word :=
  s.ibuf[byteIndex k 3] ++ s.ibuf[byteIndex k 2] ++ s.ibuf[byteIndex k 1] ++ s.ibuf[byteIndex k 0]

/-- A write of IBUF_Wk: IBUF[4k+j] <- v[8j+7:8j] (20_memory.md R43, R45). -/
def State.setIbufWord (s : State) (k : Fin 6) (v : Word) : State :=
  (((s.setByte (byteIndex k 0) (v.extractLsb' 0 8)).setByte (byteIndex k 1) (v.extractLsb' 8 8)).setByte
    (byteIndex k 2) (v.extractLsb' 16 8)).setByte (byteIndex k 3) (v.extractLsb' 24 8)

/-- Bits [31:0] of a 64-bit register (20_memory.md R43). -/
def lowHalf (d : DWord) : Word := d.extractLsb' 0 32

/-- Bits [63:32] of a 64-bit register (20_memory.md R43). -/
def highHalf (d : DWord) : Word := d.extractLsb' 32 32

/-- A 64-bit register with its LO half written (10_state.md R29; 20_memory.md R45). -/
def withLow (d : DWord) (v : Word) : DWord := highHalf d ++ v

/-- A 64-bit register with its HI half written (10_state.md R29; 20_memory.md R45). -/
def withHigh (d : DWord) (v : Word) : DWord := v ++ lowHalf d

/-- ID (10_state.md R21): "SCP" and revision 7, always. -/
def idValue : Word := 0x53435007#32

/-- What a register reads (20_memory.md R40). CMD reads 0. -/
def State.readReg (s : State) : Reg → Word
  | .id => idValue
  | .cmd => 0#32
  | .status => s.status
  | .ibufLen => s.ibufLen.zeroExtend 32
  | .ibufW k => s.ibufWord k
  | .ires => s.ires
  | .resValid => s.resValid.zeroExtend 32
  | .luxKrLo => lowHalf s.luxKr
  | .luxKrHi => highHalf s.luxKr
  | .luxKcLo => lowHalf s.luxKc
  | .luxKcHi => highHalf s.luxKc
  | .resLo k => lowHalf s.res[k]
  | .resHi k => highHalf s.res[k]
  | .cal k c => (s.cal[k]).readback c

/-- What a host read of an aligned offset returns (20_memory.md R44): the register's value, or 0 at a reserved
offset (R41). -/
def State.readAt (s : State) (off : Off) : Word :=
  match Reg.at s.cfg off with
  | some r => s.readReg r
  | none => 0#32

/-- What a host write of a register other than CMD does (20_memory.md R45). STATUS clears ERRS on a 1 in bit 4;
RO registers ignore the write (R41). -/
def State.writeReg (s : State) (r : Reg) (v : Word) : State :=
  match r with
  | .id => s
  | .cmd => s
  | .status => if v.getLsbD 4 then s.clearErrs else s
  | .ibufLen => s.setIbufLen (v.extractLsb' 0 6)
  | .ibufW k => s.setIbufWord k v
  | .ires => s
  | .resValid => s
  | .luxKrLo => s.setLuxKr (withLow s.luxKr v)
  | .luxKrHi => s.setLuxKr (withHigh s.luxKr v)
  | .luxKcLo => s.setLuxKc (withLow s.luxKc v)
  | .luxKcHi => s.setLuxKc (withHigh s.luxKc v)
  | .resLo _ => s
  | .resHi _ => s
  | .cal _ _ => s

/-- A host write of an aligned offset other than CMD's (20_memory.md R45); a reserved offset ignores it (R41). -/
def State.writeAt (s : State) (off : Off) (v : Word) : State :=
  match Reg.at s.cfg off with
  | some r => s.writeReg r v
  | none => s

/-- The platform reset (70_reset_and_hazards.md R200): every piece of the block's state at its reset value
(10_state.md R35). The parameters, what is still to come in and what the host has seen are not the block's. -/
def State.platformReset (s : State) : State :=
  { State.reset with cfg := s.cfg, port := s.port, observed := s.observed }

end Sys2Proof.Machine
end

