-- ==== Sys2Proof/Machine/Calibration.lean ====
section
/-! DEFINITION. The Calibration Store commands (41_calibration.md). -/

namespace Sys2Proof.Machine

/-- CAL_LOAD (41_calibration.md R110 to R113): CAL_LOCKED on a valid slot, then INCOMPLETE_CAL on a length other
than 24, else the twelve words of IBUF and VALID. -/
def execCalLoad (slot : Fin 4) (s : State) : Answer :=
  onSlot slot s fun c =>
    if c.valid then raise .calLocked s
    else onLength 24 .incompleteCal s (complete (s.setCal slot ⟨true, s.calBlock⟩))

/-- CAL_RELEASE (41_calibration.md R115): every coefficient 0x0000 and VALID 0; an invalid slot is no error. -/
def execCalRelease (slot : Fin 4) (s : State) : Answer :=
  onSlot slot s fun _ => complete (s.setCal slot CalSlot.empty)

end Sys2Proof.Machine
end

