-- ==== Sys2Proof/Machine/Codec.lean ====
section
/-! DEFINITION. The Register Codec commands (40_codec.md). -/

namespace Sys2Proof.Machine

/-- A codec command writes the whole of IRES and ends with OK (10_state.md R27). -/
def codecResult (v : Word) (s : State) : Answer := complete (s.setIres v)

/-- DEC_BE16 (40_codec.md R100, R101). -/
def execDecBe16 (off : Fin 32) (s : State) : Answer :=
  onBytes off 2 s (codecResult ((s.be16At off.val).zeroExtend 32) s)

/-- DEC_LE16 (40_codec.md R100, R102). -/
def execDecLe16 (off : Fin 32) (s : State) : Answer :=
  onBytes off 2 s (codecResult ((s.le16At off.val).zeroExtend 32) s)

/-- DEC_20 (40_codec.md R100, R103). -/
def execDec20 (off : Fin 32) (s : State) : Answer :=
  onBytes off 3 s (codecResult ((s.dec20At off.val).zeroExtend 32) s)

/-- TO_S16 (40_codec.md R104): IRES[15:0] read as to_signed16, modulo 2^32; IRES[31:16] is ignored. -/
def execToS16 (s : State) : Answer :=
  codecResult (BitVec.ofInt 32 (toSigned16 (s.ires.extractLsb' 0 16))) s

end Sys2Proof.Machine
end

