-- ==== Sys2Proof/Machine/Control.lean ====
section
/-! DEFINITION. NOP (44_control.md). -/

namespace Sys2Proof.Machine

/-- NOP (44_control.md R162): ERR <- OK, every other register unchanged. -/
def execNop (s : State) : Answer := complete s

end Sys2Proof.Machine
end

