-- ==== Sys2Proof/Machine/Humidity.lean ====
section
/-! DEFINITION. The humidity/temperature device's conversion and CRC check (43_comp_humidity_light.md, section 1). -/

namespace Sys2Proof.Machine

open F64

/-- -45 + 175 * temp_raw / 65535.0 (43_comp_humidity_light.md R140). -/
def rhTemperature (raw : Half) : F64 := fadd (i2f (-45)) (fdiv (i2f (175 * raw.toNat)) (lit 65535))

/-- 100 * hum_raw / 65535.0 before its clamp (43_comp_humidity_light.md R140). -/
def rhRatio (raw : Half) : F64 := fdiv (i2f (100 * raw.toNat)) (lit 65535)

/-- The humidity, clamped to [0, 100] (43_comp_humidity_light.md R140, R143). -/
def rhHumidity (raw : Half) : F64 := clamp01 (rhRatio raw)

/-- The results of COMP_RH (43_comp_humidity_light.md R140): TEMP, HUM and their valid bits. -/
def State.writeRh (s : State) (temp hum : F64) : State :=
  { s with res := (s.res.set 0 temp.toBits).set 2 hum.toBits, resValid := validRh }

/-- COMP_RH (43_comp_humidity_light.md R140, R141): big-endian temperature at IBUF[0..1], humidity at IBUF[3..4]. -/
def execCompRh (s : State) : Answer :=
  let s0 := s.setResValid 0#9
  onLength 6 .incompleteSample s0
    (complete (s0.writeRh (rhTemperature (s.be16At 0)) (rhHumidity (s.be16At 3))))

/-- CRC_RH (43_comp_humidity_light.md R145) for a given `CRC8`: the CRC bits cleared, then the length check, then the
two comparisons with IBUF[2] and IBUF[5]. A mismatch is no error. -/
def crcRhWith (crc : Byte → Byte → Byte) (s : State) : Answer :=
  onLength 6 .incompleteSample (s.setCrc false false false)
    (complete (s.setCrc true (crc (s.byte 0) (s.byte 1) == s.byte 2) (crc (s.byte 3) (s.byte 4) == s.byte 5)))

/-- CRC_RH with the OPEN parameter `CRC8` (43_comp_humidity_light.md R145, R146). -/
def execCrcRh (s : State) : Answer := crcRhWith Config.crc8 s

end Sys2Proof.Machine
end

