-- ==== Sys2Proof/Machine/Light.lean ====
section
/-! DEFINITION. The colour/light device's conversion (43_comp_humidity_light.md, section 2). -/

namespace Sys2Proof.Machine

open F64

/-- A raw count as a binary64 integer (43_comp_humidity_light.md R155). -/
def count (raw : Half) : F64 := i2f raw.toNat

/-- x = KR*red + KC*clear, before its clamp (43_comp_humidity_light.md R150). -/
def luxSum (kr kc : F64) (clear red : Half) : F64 := fadd (fmul kr (count red)) (fmul kc (count clear))

/-- The lux clamp: +0.0 where the sign bit of x is set (43_comp_humidity_light.md R152). -/
def luxClamp (x : F64) : F64 := if x.signbit then lit 0 else x

/-- The results of COMP_LUX (43_comp_humidity_light.md R150): LUX, the four raw counts and their valid bits. -/
def State.writeLux (s : State) (lux : F64) (clear red green blue : Half) : State :=
  { s with
    res := ((((s.res.set 3 lux.toBits).set 4 (count clear).toBits).set 5 (count red).toBits).set 6
      (count green).toBits).set 7 (count blue).toBits
    resValid := validLux }

/-- COMP_LUX (43_comp_humidity_light.md R150 to R153): little-endian clear, red, green and blue at IBUF[0..7];
RES_VALID cleared, then INCOMPLETE_SAMPLE, then BAD_COEFF on a coefficient or a sum that is not finite. -/
def execCompLux (s : State) : Answer :=
  let s0 := s.setResValid 0#9
  let kr := ofBits s.luxKr
  let kc := ofBits s.luxKc
  let x := luxSum kr kc (s.le16At 0) (s.le16At 2)
  onLength 8 .incompleteSample s0
    (if kr.finite && kc.finite then
      if x.finite then
        complete (s0.writeLux (luxClamp x) (s.le16At 0) (s.le16At 2) (s.le16At 4) (s.le16At 6))
      else raise .badCoeff s0
    else raise .badCoeff s0)

end Sys2Proof.Machine
end

