-- ==== Sys2Proof/Machine/Pressure.lean ====
section
/-! DEFINITION. The pressure/temperature compensation engine (42_comp_pressure.md). -/

namespace Sys2Proof.Machine

open F64

/-- The temperature chain up to t_fine (42_comp_pressure.md R122), on adcT and T1, T2, T3. -/
def tFine (adcT t1 t2 t3 : F64) : F64 :=
  let a := fsub (fdiv adcT (lit 16384)) (fdiv t1 (lit 1024))
  let v1 := fmul a t2
  let d := fsub (fdiv adcT (lit 131072)) (fdiv t1 (lit 8192))
  let v2 := fmul (fmul d d) t3
  fadd v1 v2

/-- The temperature in degrees Celsius (42_comp_pressure.md R122, R125). -/
def temperature (tf : F64) : F64 := fdiv tf (lit 5120)

/-- q1 of 42_comp_pressure.md R123: var1 = t_fine/2.0 - 64000.0. -/
def presQ1 (tf : F64) : F64 := fsub (fdiv tf (lit 2)) (lit 64000)

/-- q2b of 42_comp_pressure.md R123: var2 after both of its assignments. -/
def presQ2 (c : CalSlot) (q1 : F64) : F64 :=
  let q2 := fadd (fdiv (fmul (fmul q1 q1) (c.num 8)) (lit 32768)) (fmul (fmul q1 (c.num 7)) (lit 2))
  fadd (fdiv q2 (lit 4)) (fmul (c.num 6) (lit 65536))

/-- q1c of 42_comp_pressure.md R123: the divisor, final var1. -/
def presDivisor (g : SqGroup) (c : CalSlot) (q1 : F64) : F64 :=
  let q1b := fdiv (fadd (fdiv (sq g (c.num 5) q1) (lit 524288)) (fmul (c.num 4) q1)) (lit 524288)
  fmul (fadd (lit 1) (fdiv q1b (lit 32768))) (c.num 3)

/-- The pressure once the divisor is known not to be zero (42_comp_pressure.md R123). -/
def presBody (g : SqGroup) (c : CalSlot) (q2b q1c adcP : F64) : F64 :=
  let p0 := fsub (lit 1048576) adcP
  let p1 := fdiv (fmul (fsub p0 (fdiv q2b (lit 4096))) (lit 6250)) q1c
  let r1 := fdiv (sq g (c.num 11) p1) (lit 2147483648)
  let r2 := fdiv (fmul p1 (c.num 10)) (lit 32768)
  fdiv (fadd p1 (fdiv (fadd (fadd r1 r2) (c.num 9)) (lit 16))) (lit 100)

/-- The pressure in hectopascals (42_comp_pressure.md R123), +0.0 where the divisor compares equal to zero (R124). -/
def pressure (g : SqGroup) (c : CalSlot) (tf adcP : F64) : F64 :=
  let q1 := presQ1 tf
  let q1c := presDivisor g c q1
  if feq q1c (lit 0) then lit 0 else presBody g c (presQ2 c q1) q1c adcP

/-- t_fine of a slot and a raw temperature (42_comp_pressure.md R121, R122). -/
def CalSlot.tFine (c : CalSlot) (adcT : BitVec 20) : F64 :=
  Machine.tFine (i2f adcT.toNat) (c.num 0) (c.num 1) (c.num 2)

/-- The pressure of a slot and two raw values (42_comp_pressure.md R121, R123). -/
def CalSlot.pressure (g : SqGroup) (c : CalSlot) (adcT adcP : BitVec 20) : F64 :=
  Machine.pressure g c (c.tFine adcT) (i2f adcP.toNat)

/-- The results of COMP_PT (42_comp_pressure.md R120): TEMP, PRES, TFINE and their valid bits. -/
def State.writePt (s : State) (temp pres tf : F64) : State :=
  { s with res := ((s.res.set 0 temp.toBits).set 1 pres.toBits).set 8 tf.toBits, resValid := validPt }

/-- COMP_PT (42_comp_pressure.md R120): RES_VALID cleared, then NOT_CALIBRATED, then INCOMPLETE_SAMPLE, else the
two chains over the temperature bytes IBUF[0..2] and the pressure bytes IBUF[3..5] (R121). -/
def execCompPt (slot : Fin 4) (s : State) : Answer :=
  onSlot slot s fun c =>
    let s0 := s.setResValid 0#9
    if c.valid then
      onLength 6 .incompleteSample s0
        (complete (s0.writePt (temperature (c.tFine (s.dec20At 0)))
          (c.pressure s.cfg.sqGroup (s.dec20At 0) (s.dec20At 3)) (c.tFine (s.dec20At 0))))
    else raise .notCalibrated s0

end Sys2Proof.Machine
end

