-- ==== Sys2Proof/Machine/Dispatch.lean ====
section
/-! DEFINITION. One meaning per command (30_encoding.md R74; 44_control.md R160). -/

namespace Sys2Proof.Machine

open Sys2Proof

def exec (i : Instr) (s : State) : Host.Outcome State Fault Refusal :=
  match i with
  | .nop => Sys2Proof.Machine.execNop s
  | .decBe16 off => Sys2Proof.Machine.execDecBe16 off s
  | .decLe16 off => Sys2Proof.Machine.execDecLe16 off s
  | .dec20 off => Sys2Proof.Machine.execDec20 off s
  | .toS16 => Sys2Proof.Machine.execToS16 s
  | .calLoad slot => Sys2Proof.Machine.execCalLoad slot s
  | .calRelease slot => Sys2Proof.Machine.execCalRelease slot s
  | .compPt slot => Sys2Proof.Machine.execCompPt slot s
  | .compRh => Sys2Proof.Machine.execCompRh s
  | .compLux => Sys2Proof.Machine.execCompLux s
  | .crcRh => Sys2Proof.Machine.execCrcRh s

end Sys2Proof.Machine
end

