-- ==== Sys2Proof/Machine/Port.lean ====
section
/-! DEFINITION. What an access at the port does (20_memory.md R42, R44, R45; 44_control.md R160). -/

namespace Sys2Proof.Machine

/-- `Execute(cmd)` (44_control.md R160): decode, ILLEGAL_CMD on any word that is no command, else the command. -/
def execute (w : Word) (s : State) : Answer :=
  match decode s.cfg w with
  | .ok i => exec i s
  | .error _ => raise .illegalCmd s

/-- A host read (20_memory.md R42, R44). It returns the value and changes nothing else. -/
def hostRead (off : Off) (s : State) : Answer :=
  if aligned off then .next (s.observe (s.readAt off)) else .fault (.misalignedAccess off)

/-- A host write (20_memory.md R42, R45): CMD executes, every other offset stores or ignores. -/
def hostWrite (off : Off) (v : Word) (s : State) : Answer :=
  if aligned off then
    if off = Reg.cmd.offset then execute v s else .next (s.writeAt off v)
  else .fault (.misalignedAccess off)

/-- One event at the port, in the state that no longer holds it. -/
def serve (e : PortEvent) (s : State) : Answer :=
  match e with
  | .read off => hostRead off s
  | .write off v => hostWrite off v s
  | .reset => .next s.platformReset

/-- The event that hands the command word `w` to the block (30_encoding.md R70). -/
def cmdWrite (w : Word) : PortEvent := .write Reg.cmd.offset w

end Sys2Proof.Machine
end

