-- ==== Sys2Proof/Machine/Step.lean ====
section
/-! DEFINITION. One step: one host access (00_scope.md R17; 44_control.md R161). -/

namespace Sys2Proof.Machine

/-- One step takes the first event at the port and serves it whole (00_scope.md R17; 20_memory.md R51). With nothing
at the port the block does nothing, since it never acts on its own (R17; log entry 4). -/
def step (s : State) : Host.Outcome State Fault Refusal :=
  match s.port with
  | [] => .next s
  | e :: rest => serve e (s.setPort rest)

/-- `s` with the host about to write the command `w` (30_encoding.md R70): the block fetches nothing (20_memory.md
R55), so a command comes in as the next write of CMD (log entry 8). -/
def State.withFetchWord (s : State) (nbits w : Nat) : State :=
  s.setPort (cmdWrite (BitVec.ofNat 32 (w % 2 ^ nbits)) :: s.port)

end Sys2Proof.Machine
end

