-- ==== Sys2Proof/Machine/Sensors.lean ====
section
/-! DEFINITION. The sensors as the host sees them (20_memory.md, section 5): bus addresses, the constants of their
register spaces, and the bus transport's calls. The block never reaches them (R60). -/

namespace Sys2Proof.Machine

/-- The sensors (00_scope.md R16). The pressure/temperature device has one instance for each calibration slot (R7; 10_state.md
R34), so the slot names it; of the other two there is one (log entry 22). -/
inductive Device where
  | pt (slot : Fin 4)
  | rh
  | lux
deriving DecidableEq, Repr

/-- A sensor's 7-bit bus address, OPEN (00_scope.md R7, D34). -/
def Device.addr : Device → BitVec 7
  | .pt slot => Config.addrPt slot
  | .rh => Config.addrRh
  | .lux => Config.addrLux

/-- The `addr` of a bus transaction (30_encoding.md R78): ADDR_PT, ADDR_RH, ADDR_LUX, or another address as a number. -/
inductive Addr where
  | device (dev : Device)
  | other (addr : BitVec 7)
deriving DecidableEq, Repr

/-- The 7 bits of an address. -/
def Addr.bits : Addr → BitVec 7
  | .device dev => dev.addr
  | .other a => a

namespace Sensor

/-- The first register of the calibration block, 0x88 (20_memory.md R60). -/
def ptCal : Byte := 0x88#8

/-- The length of the calibration block (R60). -/
def ptCalLen : Nat := 24

/-- The control register (R60). -/
def ptControl : Byte := 0xF4#8

/-- The control value: oversample x1/x1, normal mode (R60). -/
def ptControlValue : Byte := 0x27#8

/-- The temperature result, 3 bytes (R60). -/
def ptTemp : Byte := 0xFA#8

/-- The pressure result, 3 bytes (R60). -/
def ptPres : Byte := 0xF7#8

/-- The first byte of the humidity device's measurement command (R61). -/
def rhCommand : Byte := 0x24#8

/-- The second byte of the humidity device's measurement command (R61). -/
def rhCommandData : Byte := 0x00#8

/-- The command bit and a register offset: the wire address the host sends the colour device (R62). -/
def luxWire (offset : Byte) : Byte := 0x80#8 ||| offset

/-- The colour device's register offsets (R62): enable, integration time, gain, and the four channels. -/
def luxEnable : Byte := 0x00#8
def luxTime : Byte := 0x01#8
def luxGain : Byte := 0x0F#8
def luxClear : Byte := 0x14#8
def luxRed : Byte := 0x16#8
def luxGreen : Byte := 0x18#8
def luxBlue : Byte := 0x1A#8

/-- The enable register's values: power-on, then ADC enabled (R62). -/
def luxPowerOn : Byte := 0x01#8
def luxAdcOn : Byte := 0x03#8

end Sensor

/-- A call of the bus transport (20_memory.md R63): `read_block` and `write_block` at a register of a device. -/
inductive BusCall where
  | read (addr : Addr) (reg : Byte) (len : Nat)
  | write (addr : Addr) (reg : Byte) (bytes : List Byte)
deriving DecidableEq, Repr

/-- `read_byte` (R63). -/
def BusCall.readByte (addr : Addr) (reg : Byte) : BusCall := .read addr reg 1

/-- `write_byte` (R63). -/
def BusCall.writeByte (addr : Addr) (reg v : Byte) : BusCall := .write addr reg [v]

/-- What the transport answers (R63; 60_exceptions.md R173). -/
inductive BusReply where
  /-- A read has returned, with these bytes. -/
  | data (bytes : List Byte)
  /-- A write has been taken. -/
  | accepted
  /-- A BusError, and the bytes a read had received before it. -/
  | busError (received : List Byte)
  /-- A write to a control or enable register has been rejected: a ConfigurationError. -/
  | rejected
deriving DecidableEq, Repr

/-- The bytes a read of `len` bytes has received. A read that fails has received fewer than it asked for (60_exceptions.md R173;
log entry 16). -/
def BusReply.bytes (len : Nat) : BusReply → List Byte
  | .data bs => bs.take len
  | .accepted => []
  | .busError bs => bs.take (len - 1)
  | .rejected => []

/-- What the host fetches for the block's input buffer (20_memory.md R60 to R62). -/
inductive Input where
  | calibration (slot : Fin 4)
  | sample (dev : Device)
deriving DecidableEq, Repr

/-- The device an input is fetched from. -/
def Input.dev : Input → Device
  | .calibration slot => .pt slot
  | .sample dev => dev

/-- The bytes of a whole input (60_exceptions.md R172). -/
def Input.length : Input → Nat
  | .calibration _ => Sensor.ptCalLen
  | .sample (.pt _) => 6
  | .sample .rh => 6
  | .sample .lux => 8

/-- The registers an input is read from (20_memory.md R60 to R62), each byte of a block at a register of its own.
DESIGN CHOICE (log entry 25): R61 gives the humidity result as 6 bytes from the base register; the model takes them to stand at
RH_BASE_REG to RH_BASE_REG + 5, so that a read that begins at one of these reads a part of the sample. -/
def Input.registers : Input → List Nat
  | .calibration _ => (List.range 24).map (Sensor.ptCal.toNat + ·)
  | .sample (.pt _) => (List.range 6).map (Sensor.ptPres.toNat + ·)
  | .sample .rh => (List.range 6).map (Config.rhBaseReg.toNat + ·)
  | .sample .lux => (List.range 8).map ((Sensor.luxWire Sensor.luxClear).toNat + ·)

/-- The device a call addresses. -/
def BusCall.addr : BusCall → Addr
  | .read addr _ _ => addr
  | .write addr _ _ => addr

/-- The call reads register `r`, within the first `n` bytes it asks for. -/
def BusCall.covers (call : BusCall) (n r : Nat) : Bool :=
  match call with
  | .read _ reg len => decide (reg.toNat ≤ r ∧ r < reg.toNat + min n len)
  | .write _ _ _ => false

/-- The bytes a call asks for. -/
def BusCall.asked : BusCall → Nat
  | .read _ _ len => len
  | .write _ _ _ => 0

/-- The call reads a register of the input. -/
def BusCall.reads (call : BusCall) (inp : Input) : Bool :=
  call.addr == .device inp.dev && inp.registers.any (call.covers call.asked)

/-- The call writes the pressure device's control register or reads its results, the calls that need its slot loaded
(41_calibration.md R114; 70_reset_and_hazards.md R211).
DESIGN CHOICE (log entry 25): 20_memory.md R63 does not say which registers a write_block of several bytes reaches; the model takes
its bytes to go to consecutive registers, so that a write that begins below the control register may reach it. -/
def BusCall.usesPt (slot : Fin 4) : BusCall → Bool
  | .read addr reg len => (BusCall.read addr reg len).reads (.sample (.pt slot))
  | .write addr reg bytes =>
    addr == .device (.pt slot) && decide (reg.toNat ≤ Sensor.ptControl.toNat ∧ Sensor.ptControl.toNat < reg.toNat + bytes.length)

/-- The inputs a device has. -/
def Device.inputs : Device → List Input
  | .pt slot => [.calibration slot, .sample (.pt slot)]
  | .rh => [.sample .rh]
  | .lux => [.sample .lux]

/-- The input a call reads of. -/
def BusCall.input (call : BusCall) : Option Input :=
  match call.addr with
  | .device dev => dev.inputs.find? call.reads
  | .other _ => none

/-- What `initialize` yields for a device (70_reset_and_hazards.md R213). -/
inductive InitResult where
  | handle
  | configurationError
deriving DecidableEq, Repr

end Sys2Proof.Machine
end

