-- ==== Sys2Proof/Machine/HostProgram.lean ====
section
/-! DEFINITION. Host programs: the statements and pseudo-instructions of 30_encoding.md R78 and R79. Labels, variables and
byte buffers are named by numbers (log entry 15). -/

namespace Sys2Proof.Machine

/-- A number a host program computes from what it has read (30_encoding.md R78; log entry 15). Of a byte the read did not return,
as byte 2 after a read of 2 bytes, the spec gives no value: it is free (`Config.unreceivedByte`). -/
inductive Expr where
  | num (n : Nat)
  /-- A variable: the value of an RD, or one the program has assigned. -/
  | var (name : Nat)
  /-- `e[hi:lo]` (00_scope.md R9). -/
  | bits (e : Expr) (hi lo : Nat)
  /-- Byte `i` of what a BUS.READ returned. -/
  | byte (buf i : Nat)
  /-- How many bytes a BUS.READ returned. -/
  | length (buf : Nat)
  | add (a b : Expr)
  | sub (a b : Expr)
  | mul (a b : Expr)
deriving DecidableEq, Repr

/-- The condition of an IF (30_encoding.md R78; log entry 15). -/
inductive Cond where
  | eq (a b : Expr)
  | lt (a b : Expr)
  | not (c : Cond)
  | and (c d : Cond)
  | or (c d : Cond)
  /-- The host has a handle for the device (70_reset_and_hazards.md R213). -/
  | handle (dev : Device)
  /-- The slot needs no load after a reset of the block (R202). -/
  | loaded (slot : Fin 4)
deriving DecidableEq, Repr

/-- `a != b`. -/
def Cond.ne (a b : Expr) : Cond := .not (.eq a b)

/-- `a <= b`. -/
def Cond.le (a b : Expr) : Cond := .not (.lt b a)

/-- Bytes an LDBUF names (R79).
DESIGN CHOICE (log entry 15): R79 does not say what its operands may be. They are bytes written out, all the bytes a bus read
returned, or one byte computed from what has been read, such as `t[0]` of 70_reset_and_hazards.md R214, modulo 256. An operand that names a byte a short read did not return stands for
no byte and is not counted in n, since R214 has IBUF_LEN as the bytes received. -/
inductive Bytes where
  | lit (bs : List Byte)
  | buf (name : Nat)
  | one (e : Expr)
deriving DecidableEq, Repr

/-- How the host takes a BusError or a ConfigurationError of one bus transaction (20_memory.md R63; 60_exceptions.md R173). -/
inductive Course where
  /-- It ends its program. -/
  | stop
  /-- It goes on; after a read, with the bytes received. -/
  | goOn
  /-- It goes to a label. -/
  | goto (label : Nat)
deriving DecidableEq, Repr

/-- A statement of a host program (R78), its pseudo-instructions included (R79).
DESIGN CHOICE (log entry 15): the register and the length of a bus statement and the bytes of a BUS.WRITE are constants of the
program; R78 does not say whether they may be values the host has read. -/
inductive Stmt where
  /-- `mnemonic [operand]`: WR CMD with the command's encoding. -/
  | cmd (i : Instr)
  /-- A command under a condition, tested in the step that writes CMD; where it fails, on to a label (log entry 23). -/
  | cmdIf (c : Cond) (i : Instr) (label : Nat)
  /-- `WR <reg>, <value32>`, by register name. -/
  | wr (r : Reg) (v : Expr)
  /-- `WR <offset>, <value32>`. -/
  | wrOff (off : Off) (v : Expr)
  /-- `RD <reg> -> <name>`, by register name. -/
  | rd (r : Reg) (dst : Nat)
  /-- `RD <offset> -> <name>`. -/
  | rdOff (off : Off) (dst : Nat)
  /-- `LDBUF b0, …`. -/
  | ldbuf (src : List Bytes)
  /-- `SETK KR=<x>, KC=<y>`, by the binary64 encodings. -/
  | setk (kr kc : DWord)
  /-- `CLRERRS`. -/
  | clrErrs
  /-- `BERR <label>`, with the variable it reads STATUS into. -/
  | berr (dst label : Nat)
  /-- `BUS.READ addr, reg, len -> bytes`. -/
  | busRead (addr : Addr) (reg : Byte) (len dst : Nat) (course : Course)
  /-- `BUS.WRITE addr, reg, bytes`. -/
  | busWrite (addr : Addr) (reg : Byte) (bytes : List Byte) (course : Course)
  /-- `WAIT <ms>`. -/
  | wait (ms : Nat)
  /-- `IF <condition> GOTO <label>`. -/
  | ifGoto (c : Cond) (label : Nat)
  /-- `GOTO <label>`. -/
  | goto (label : Nat)
  /-- `label:`. -/
  | label (name : Nat)
  /-- A host variable's new value, as `n = n + 1` of 95_test_vectors.md Program 2 (log entry 15). -/
  | assign (dst : Nat) (e : Expr)
  /-- `initialize` of a device begins (70_reset_and_hazards.md R213; log entry 15). -/
  | initialise (dev : Device)
  /-- `initialize` of a device has ended with this result (70_reset_and_hazards.md R213; log entry 15). -/
  | initialised (dev : Device) (result : InitResult)
  /-- The host begins to fetch an input; a sample's fetch is one `read(handle)` (70_reset_and_hazards.md R214; log entry 15). -/
  | fetch (inp : Input)
  /-- The host has a sensor power-cycled (20_memory.md R64; log entry 15). -/
  | powerCycle (dev : Device)
deriving DecidableEq, Repr

/-- `CAL_LOAD`, `CAL_RELEASE` and `COMP_PT` with no operand: slot 0 (R79). -/
def Stmt.calLoad0 : Stmt := .cmd (.calLoad 0)
def Stmt.calRelease0 : Stmt := .cmd (.calRelease 0)
def Stmt.compPt0 : Stmt := .cmd (.compPt 0)

/-- What is left of a statement once its pseudo-instructions are expanded. -/
inductive Act where
  | access (e : PortEvent)
  /-- An access under a condition; where it fails, on to a label. -/
  | guarded (c : Cond) (e : PortEvent) (label : Nat)
  | rd (off : Off) (dst : Nat)
  | bus (c : BusCall) (dst : Nat) (course : Course)
  /-- The transaction in flight waits for its reply. -/
  | reply (c : BusCall) (dst : Nat) (course : Course)
  | wait (ms : Nat)
  | branch (c : Cond) (label : Nat)
  | jump (label : Nat)
  | assign (dst : Nat) (e : Expr)
  | initialise (dev : Device)
  | initialised (dev : Device) (result : InitResult)
  | fetch (inp : Input)
  | powerCycle (dev : Device)
deriving DecidableEq, Repr

/-- A write of a register by name. -/
def writeTo (r : Reg) (v : Word) : PortEvent := .write r.offset v

/-- Byte i of a list, 0 beyond its end (R79). -/
def padded (bs : List Byte) (i : Nat) : Byte := bs.getD i 0#8

/-- The word of IBUF_Wk that LDBUF writes (R79): b(4k+3), b(4k+2), b(4k+1), b(4k), from the top. -/
def ldbufWord (bs : List Byte) (k : Nat) : Word :=
  padded bs (4 * k + 3) ++ padded bs (4 * k + 2) ++ padded bs (4 * k + 1) ++ padded bs (4 * k)

/-- The accesses of LDBUF (R79): the words it needs, then IBUF_LEN. -/
def ldbufAccesses (bs : List Byte) : List PortEvent :=
  ((List.finRange 6).filter fun k => 4 * k.val < bs.length).map (fun k => writeTo (.ibufW k) (ldbufWord bs k.val)) ++
    [writeTo .ibufLen (BitVec.ofNat 32 bs.length)]

/-- The accesses of SETK (R79). -/
def setkAccesses (kr kc : DWord) : List PortEvent :=
  [writeTo .luxKrLo (lowHalf kr), writeTo .luxKrHi (highHalf kr), writeTo .luxKcLo (lowHalf kc),
    writeTo .luxKcHi (highHalf kc)]

/-- The access of CLRERRS (R79). -/
def clrErrsAccess : PortEvent := writeTo .status 0x00000010#32

/-- Bits [3:0] of the value read are not 0: BERR's condition (R79). -/
def errCond (var : Nat) : Cond := .ne (.bits (.var var) 3 0) (.num 0)

end Sys2Proof.Machine
end

