-- ==== Sys2Proof/Machine/Sequences.lean ====
section
/-! DEFINITION. The host's initialisation and read sequences (70_reset_and_hazards.md R211 to R214), as host programs. Each is
given the labels it uses; buffers 0 to 3 and variables 0 to 4 are theirs. -/

namespace Sys2Proof.Machine

open Sensor

/-- `initialize` ends (70_reset_and_hazards.md R213): with a handle where the statements before it ran through, with
ConfigurationError from label `fail` on. -/
def initEnd (dev : Device) (fail done : Nat) : List Stmt :=
  [.initialised dev .handle, .goto done, .label fail, .initialised dev .configurationError, .label done]

/-- The calibration block is fetched and loaded (70_reset_and_hazards.md R211). A BusError goes on with the bytes received, so
CAL_LOAD raises INCOMPLETE_CAL.
DESIGN CHOICE (log entry 27): a reset of the block between the words of the LDBUF does not stop the host. -/
def loadPt (slot : Fin 4) : List Stmt :=
  [.fetch (.calibration slot), .busRead (.device (.pt slot)) ptCal ptCalLen 0 .goOn, .ldbuf [.buf 0], .cmd (.calLoad slot)]

/-- The pressure/temperature device's initialisation (70_reset_and_hazards.md R211): the control register is written
only when CAL_LOAD has succeeded (41_calibration.md R114). A reset of the block clears the code of CAL_LOAD before the host has read
it, so after one the initialisation fails (log entry 23). -/
def initPt (slot : Fin 4) (fail done : Nat) : List Stmt :=
  [.initialise (.pt slot)] ++ loadPt slot ++
    [.berr 0 fail, .ifGoto (.not (.loaded slot)) fail,
      .busWrite (.device (.pt slot)) ptControl [ptControlValue] (.goto fail)] ++ initEnd (.pt slot) fail done

/-- The humidity/temperature device has no initialisation sequence, and its handle needs nothing of the block
(70_reset_and_hazards.md R213). -/
def initRh : List Stmt := [.initialise .rh, .initialised .rh .handle]

/-- The colour/light device's initialisation (70_reset_and_hazards.md R212). -/
def initLux (fail done : Nat) : List Stmt :=
  [.initialise .lux, .busWrite (.device .lux) (luxWire luxEnable) [luxPowerOn] (.goto fail), .wait Config.tLuxPon,
    .busWrite (.device .lux) (luxWire luxEnable) [luxAdcOn] (.goto fail),
    .busWrite (.device .lux) (luxWire luxTime) [Config.luxAtime] (.goto fail),
    .busWrite (.device .lux) (luxWire Sensor.luxGain) [Config.luxGain] (.goto fail), .wait Config.tLuxSettle] ++
    initEnd .lux fail done

/-- The host's two courses after a BusError on a sample read (60_exceptions.md R173): go on, so that LDBUF reports the
bytes received, or leave the read without a command. -/
def sampleCourse (report : Bool) (skip : Nat) : Course := if report then .goOn else .goto skip

/-- A read of a device the host has no handle for issues nothing (70_reset_and_hazards.md R213), for the pressure device one
instance by itself. -/
def needsHandle (dev : Device) (skip : Nat) : Stmt := .ifGoto (.not (.handle dev)) skip

/-- After a reset of the block the slot is loaded again, and the sensor is not initialised again (70_reset_and_hazards.md R202). A
CAL_LOAD that fails ends the handle (41_calibration.md R113; log entry 23), so that no result is read (R211). -/
def reloadPt (slot : Fin 4) (fail skip : Nat) : List Stmt :=
  [needsHandle (.pt slot) skip, .ifGoto (.loaded slot) skip] ++ loadPt slot ++
    [.berr 0 fail, .goto skip, .label fail, .initialised (.pt slot) .configurationError, .label skip]

/-- The pressure/temperature device's read sequence (70_reset_and_hazards.md R214), with no result read
unless the slot is loaded (R211) and no COMP_PT after a reset in the middle of the read (R202; log entry 23). -/
def readPt (slot : Fin 4) (report : Bool) (skip : Nat) : List Stmt :=
  [.fetch (.sample (.pt slot)), needsHandle (.pt slot) skip, .ifGoto (.not (.loaded slot)) skip, .wait Config.tPtConv,
    .busRead (.device (.pt slot)) ptTemp 3 0 (sampleCourse report skip),
    .busRead (.device (.pt slot)) ptPres 3 1 (sampleCourse report skip), .ldbuf [.buf 0, .buf 1],
    .cmdIf (.loaded slot) (.compPt slot) skip, .rd .status 0, .rd (.resLo 0) 1, .rd (.resHi 0) 2, .rd (.resLo 1) 3, .rd (.resHi 1) 4, .label skip]

/-- The humidity/temperature device's read sequence (70_reset_and_hazards.md R214); the CRC check is optional.
DESIGN CHOICE (log entry 27): a reset of the block between the words of the LDBUF does not stop the host. -/
def readRh (check report : Bool) (skip : Nat) : List Stmt :=
  [.fetch (.sample .rh), needsHandle .rh skip, .busWrite (.device .rh) rhCommand [rhCommandData] (.goto skip),
    .wait Config.tRhSettle,
    .busRead (.device .rh) Config.rhBaseReg 6 0 (sampleCourse report skip), .ldbuf [.buf 0], .cmd .compRh] ++
    (if check then [.cmd .crcRh] else []) ++ [.label skip]

/-- The colour/light device's read sequence (70_reset_and_hazards.md R214): one block read from the clear channel.
DESIGN CHOICE (log entry 27): a reset of the block between the words of the LDBUF does not stop the host. -/
def readLux (report : Bool) (skip : Nat) : List Stmt :=
  [.fetch (.sample .lux), needsHandle .lux skip,
    .busRead (.device .lux) (luxWire luxClear) 8 0 (sampleCourse report skip), .ldbuf [.buf 0], .cmd .compLux, .label skip]

/-- The same with four 2-byte reads (43_comp_humidity_light.md R151; log entry 27). -/
def readLuxByChannel (report : Bool) (skip : Nat) : List Stmt :=
  [.fetch (.sample .lux), needsHandle .lux skip, .busRead (.device .lux) (luxWire luxClear) 2 0 (sampleCourse report skip),
    .busRead (.device .lux) (luxWire luxRed) 2 1 (sampleCourse report skip),
    .busRead (.device .lux) (luxWire luxGreen) 2 2 (sampleCourse report skip),
    .busRead (.device .lux) (luxWire luxBlue) 2 3 (sampleCourse report skip),
    .ldbuf [.buf 0, .buf 1, .buf 2, .buf 3], .cmd .compLux, .label skip]

/-- All three devices initialised and then read once: where one fails the host goes on with the others. -/
def session (slot : Fin 4) (check report : Bool) : List Stmt :=
  initPt slot 0 1 ++ initRh ++ initLux 2 3 ++ reloadPt slot 4 5 ++ readPt slot report 6 ++ readRh check report 7 ++
    readLux report 8

/-- The host's presentation of a result: ROUND2, OPEN (42_comp_pressure.md R125; 92_eei_decisions.md D23). -/
def presented (s : State) (k : Fin 9) : Option Int := (s.result k).map Config.round2

/-- Where a register stands in the host's address map: SCP_BASE, OPEN, and its offset (20_memory.md R40, R49). -/
def hostAddress (r : Reg) : Nat := Config.scpBase + r.offsetNat

end Sys2Proof.Machine
end

