-- ==== Sys2Proof/Machine/HostLog.lean ====
section
/-! DEFINITION. The log of what the host has done and what has befallen it, and what it knows from it: its handles
(70_reset_and_hazards.md R213) and the slots loaded since the last reset of the block (R202). A log has the latest event first. -/

namespace Sys2Proof.Machine

/-- An event of the log. -/
inductive HostEvent where
  /-- A bus transaction begins, after so many milliseconds of waits. -/
  | busStart (time : Nat) (call : BusCall)
  /-- The transaction ends with its reply. -/
  | busEnd (time : Nat) (call : BusCall) (reply : BusReply)
  /-- An access of the block's port, and the code in STATUS.ERR after it. -/
  | access (e : PortEvent) (err : ErrCode)
  /-- The platform has reset the block (70_reset_and_hazards.md R200). -/
  | reset
  /-- An initialisation begins (R213). -/
  | initialise (dev : Device)
  /-- An initialisation has ended (R213). -/
  | initialised (dev : Device) (result : InitResult)
  /-- The host begins to fetch an input: the calibration block, or a sample by a `read(handle)` (R211, R214). -/
  | fetch (inp : Input)
  /-- A sensor has been power-cycled (20_memory.md R64; 70_reset_and_hazards.md R202). -/
  | powerCycle (dev : Device)
deriving DecidableEq, Repr

/-- The command a port event makes the block run, under `cfg`; none where it runs none. -/
def PortEvent.command (cfg : Params) : PortEvent → Option Instr
  | .read _ => none
  | .write off v =>
    if off = Reg.cmd.offset then
      match decode cfg v with
      | .ok i => some i
      | .error _ => none
    else none
  | .reset => none

/-- How far a device's initialisation has come. -/
inductive InitState where
  | never
  | running
  | ready
  | failed
deriving DecidableEq, Repr

/-- One event later. A write of the device that is not accepted fails the initialisation it falls in (60_exceptions.md R173), and a
sensor that has been power-cycled needs a new one (70_reset_and_hazards.md R202).
DESIGN CHOICE (log entry 26): R173 gives no end to the time in which no command is issued for a device whose initialisation has
failed; it ends where a new initialisation of the device begins, or where the sensor is power-cycled. -/
def InitState.next (dev : Device) (st : InitState) : HostEvent → InitState
  | .busStart _ _ => st
  | .busEnd _ (.read _ _ _) _ => st
  | .busEnd _ (.write addr _ _) reply =>
    if st = .running ∧ addr = .device dev ∧ reply ≠ .accepted then .failed else st
  | .access _ _ => st
  | .reset => st
  | .initialise d => if d = dev then .running else st
  | .initialised d result =>
    if d = dev then
      match result with
      | .configurationError => .failed
      | .handle => if st = .running then .ready else st
    else st
  | .fetch _ => st
  | .powerCycle d => if d = dev then .never else st

/-- The state of `dev`'s initialisation (70_reset_and_hazards.md R213). -/
def initOf (dev : Device) : List HostEvent → InitState
  | [] => .never
  | e :: before => (initOf dev before).next dev e

/-- The host has a handle for `dev` (70_reset_and_hazards.md R213).
DESIGN CHOICE (log entry 23): a reset of the block and a CAL_RELEASE do not end it; the reload duty of R202 is `loadedIn`'s. -/
def handleIn (log : List HostEvent) (dev : Device) : Bool := initOf dev log == .ready

/-- The block has not been reset since `slot` was last loaded with success, or not at all (70_reset_and_hazards.md R202). -/
def loadedIn (cfg : Params) (slot : Fin 4) : List HostEvent → Bool
  | [] => true
  | .busStart _ _ :: before => loadedIn cfg slot before
  | .busEnd _ _ _ :: before => loadedIn cfg slot before
  | .access e err :: before =>
    if e.command cfg = some (.calLoad slot) ∧ err = .ok then true else loadedIn cfg slot before
  | .reset :: _ => false
  | .initialise _ :: before => loadedIn cfg slot before
  | .initialised _ _ :: before => loadedIn cfg slot before
  | .fetch _ :: before => loadedIn cfg slot before
  | .powerCycle _ :: before => loadedIn cfg slot before

end Sys2Proof.Machine
end

