-- ==== Sys2Proof/Machine/System.lean ====
section
/-! DEFINITION. The agents together (00_scope.md R17): a host running a program of 30_encoding.md R78 against the block, a bus
whose replies are given, and a platform whose reset pulses are given (log entries 5, 15 and 16). Every access the host makes
is one step of the block. -/

namespace Sys2Proof.Machine

/-- Why the host stops. -/
inductive HostStop where
  /-- The program has ended. -/
  | finished
  /-- The transport failed and the statement's course is to stop (20_memory.md R63; 60_exceptions.md R173). -/
  | busError
  /-- A control or enable write was rejected and the statement's course is to stop (60_exceptions.md R173). -/
  | configurationError
  /-- The list of replies has run out, or the reply does not fit the call. -/
  | noReply
  /-- The access has no step (20_memory.md R42). -/
  | stuck (f : Fault)
  /-- The block refused the command. -/
  | refused (r : Refusal)
  /-- A GOTO names no label of the program. -/
  | unknownLabel
  /-- An LDBUF of more than 24 bytes (30_encoding.md R79). -/
  | tooManyBytes
deriving DecidableEq, Repr

/-- The host, the block, what the bus will answer and when the platform will reset the block. -/
structure System where
  scp : State
  prog : List Stmt
  pos : Nat
  /-- What is left of the statement being run. -/
  todo : List Act
  /-- The host's variables, the latest first. -/
  vars : List (Nat × Nat)
  /-- The bytes its bus reads returned, and from which address, the latest first. -/
  bufs : List (Nat × Addr × List Byte)
  replies : List BusReply
  /-- Whether a reset pulse comes before the next host steps, one entry a step; none once the list has ended. -/
  resets : List Bool
  /-- What the host has done, the latest first. -/
  log : List HostEvent
  /-- The milliseconds it has waited: a lower bound of the time gone by (70_reset_and_hazards.md R225). -/
  clock : Nat
deriving DecidableEq, Repr

/-- A host about to run `prog` against `s`. -/
def System.start (s : State) (prog : List Stmt) (replies : List BusReply) (resets : List Bool) : System :=
  ⟨s, prog, 0, [], [], [], replies, resets, [], 0⟩

/-- The latest value of a variable, 0 where it has none. -/
def System.var (y : System) (name : Nat) : Nat := ((y.vars.find? fun p => p.1 == name).map (·.2)).getD 0

/-- The latest bytes of a buffer, none where none were read. -/
def System.buf (y : System) (name : Nat) : List Byte := ((y.bufs.find? fun p => p.1 == name).map (·.2.2)).getD []

/-- The value of an expression (30_encoding.md R78; log entry 15). -/
def System.value (y : System) : Expr → Nat
  | .num n => n
  | .var name => y.var name
  | .bits e hi lo => y.value e / 2 ^ lo % 2 ^ (hi + 1 - lo)
  | .byte buf i => (((y.buf buf)[i]?).getD (Config.unreceivedByte buf i)).toNat
  | .length buf => (y.buf buf).length
  | .add a b => y.value a + y.value b
  | .sub a b => y.value a - y.value b
  | .mul a b => y.value a * y.value b

/-- Every byte an expression names has been received. -/
def System.received (y : System) : Expr → Bool
  | .num _ => true
  | .var _ => true
  | .bits e _ _ => y.received e
  | .byte buf i => decide (i < (y.buf buf).length)
  | .length _ => true
  | .add a b => y.received a && y.received b
  | .sub a b => y.received a && y.received b
  | .mul a b => y.received a && y.received b

/-- The bytes an LDBUF names: those received (70_reset_and_hazards.md R214; log entry 15). -/
def System.bytes (y : System) (src : List Bytes) : List Byte :=
  src.flatMap fun b =>
    match b with
    | .lit bs => bs
    | .buf name => y.buf name
    | .one e => if y.received e then [BitVec.ofNat 8 (y.value e)] else []

/-- Whether a condition holds (30_encoding.md R78; log entry 15). -/
def System.holds (y : System) : Cond → Bool
  | .eq a b => y.value a == y.value b
  | .lt a b => decide (y.value a < y.value b)
  | .not c => !y.holds c
  | .and c d => y.holds c && y.holds d
  | .or c d => y.holds c || y.holds d
  | .handle dev => handleIn y.log dev
  | .loaded slot => loadedIn y.scp.cfg slot y.log

/-- The 32-bit value of a WR (30_encoding.md R78). -/
def System.word (y : System) (e : Expr) : Word := BitVec.ofNat 32 (y.value e)

/-- A statement as the acts it stands for (30_encoding.md R78, R79). -/
def System.expand (y : System) : Stmt → Except HostStop (List Act)
  | .cmd i => .ok [.access (cmdWrite (encode i))]
  | .cmdIf c i label => .ok [.guarded c (cmdWrite (encode i)) label]
  | .wr r v => .ok [.access (writeTo r (y.word v))]
  | .wrOff off v => .ok [.access (.write off (y.word v))]
  | .rd r dst => .ok [.rd r.offset dst]
  | .rdOff off dst => .ok [.rd off dst]
  | .ldbuf src =>
    if (y.bytes src).length ≤ 24 then .ok ((ldbufAccesses (y.bytes src)).map Act.access) else .error .tooManyBytes
  | .setk kr kc => .ok ((setkAccesses kr kc).map Act.access)
  | .clrErrs => .ok [.access clrErrsAccess]
  | .berr dst label => .ok [.rd Reg.status.offset dst, .branch (errCond dst) label]
  | .busRead addr reg len dst course => .ok [.bus (.read addr reg len) dst course]
  | .busWrite addr reg bytes course => .ok [.bus (.write addr reg bytes) 0 course]
  | .wait ms => .ok [.wait ms]
  | .ifGoto c label => .ok [.branch c label]
  | .goto label => .ok [.jump label]
  | .label _ => .ok []
  | .assign dst e => .ok [.assign dst e]
  | .initialise dev => .ok [.initialise dev]
  | .initialised dev result => .ok [.initialised dev result]
  | .fetch inp => .ok [.fetch inp]
  | .powerCycle dev => .ok [.powerCycle dev]

/-- The host has done one more thing. -/
def System.note (y : System) (e : HostEvent) : System := { y with log := e :: y.log }

/-- One access of the host: one step of the block (00_scope.md R17). It goes before what stands in the block's own list of
events, which the host layer leaves as it is: reset pulses come from `resets` (log entry 5). -/
def System.access (y : System) (e : PortEvent) : Except HostStop System :=
  match step (y.scp.setPort (e :: y.scp.port)) with
  | .next s => .ok ({ y with scp := s }.note (.access e s.err))
  | .fault f => .error (.stuck f)
  | .refused r => .error (.refused r)

/-- The value the last read returned. -/
def State.lastRead (s : State) : Word := s.observed.getLast?.getD 0#32

/-- A GOTO: on to the first statement with the label. -/
def System.jump (y : System) (label : Nat) : Except HostStop System :=
  match y.prog.findIdx? fun st => st == .label label with
  | some k => .ok { y with pos := k, todo := [] }
  | none => .error .unknownLabel

/-- The host takes an error of a transaction as the statement says (20_memory.md R63; 60_exceptions.md R173). -/
def System.follow (y : System) (why : HostStop) : Course → Except HostStop System
  | .stop => .error why
  | .goOn => .ok y
  | .goto label => y.jump label

/-- The bytes of a read of `addr`. -/
def System.setBuf (y : System) (name : Nat) (addr : Addr) (bs : List Byte) : System :=
  { y with bufs := (name, addr, bs) :: y.bufs }

/-- A fetch begins: the bytes held of its device are dropped, since partial reads are no resumable state (20_memory.md R64) and
nothing is kept between reads (70_reset_and_hazards.md R214; log entry 16). -/
def System.startFetch (y : System) (inp : Input) : System :=
  { y.note (.fetch inp) with
    bufs := y.bufs.map fun (p : Nat × Addr × List Byte) => if p.2.1 = .device inp.dev then (p.1, p.2.1, []) else p }

/-- A bus transaction begins: it is in flight until its reply, which the host waits for (20_memory.md R64). -/
def System.startBus (y : System) (c : BusCall) (dst : Nat) (course : Course) : System :=
  { y with todo := .reply c dst course :: y.todo }.note (.busStart y.clock c)

/-- The next reply ends the transaction in flight (20_memory.md R63; 60_exceptions.md R173; log entry 16). -/
def System.endBus (y : System) (c : BusCall) (dst : Nat) (course : Course) : Except HostStop System :=
  match y.replies with
  | [] => .error .noReply
  | r :: rest =>
    let z := { y with replies := rest }.note (.busEnd y.clock c r)
    match c, r with
    | .read addr _ len, .data _ => .ok (z.setBuf dst addr (r.bytes len))
    | .read addr _ len, .busError _ => (z.setBuf dst addr (r.bytes len)).follow .busError course
    | .read _ _ _, .accepted => .error .noReply
    | .read _ _ _, .rejected => .error .noReply
    | .write _ _ _, .accepted => .ok z
    | .write _ _ _, .busError _ => z.follow .busError course
    | .write _ _ _, .rejected => z.follow .configurationError course
    | .write _ _ _, .data _ => .error .noReply

/-- One act of the host. -/
def System.act (y : System) : Act → Except HostStop System
  | .access e => y.access e
  | .guarded c e label => if y.holds c then y.access e else y.jump label
  | .rd off dst =>
    match y.access (.read off) with
    | .ok z => .ok { z with vars := (dst, z.scp.lastRead.toNat) :: z.vars }
    | .error e => .error e
  | .bus c dst course => .ok (y.startBus c dst course)
  | .reply c dst course => y.endBus c dst course
  | .wait ms => .ok { y with clock := y.clock + ms }
  | .branch c label => if y.holds c then y.jump label else .ok y
  | .jump label => y.jump label
  | .assign dst e => .ok { y with vars := (dst, y.value e) :: y.vars }
  | .initialise dev => .ok (y.note (.initialise dev))
  | .initialised dev result => .ok (y.note (.initialised dev result))
  | .fetch inp => .ok (y.startFetch inp)
  | .powerCycle dev => .ok (y.note (.powerCycle dev))

/-- The platform's turn: a reset pulse where `resets` has one (70_reset_and_hazards.md R200; log entry 5). -/
def System.platform (y : System) : System :=
  match y.resets with
  | [] => y
  | true :: rest => { y with scp := y.scp.platformReset, resets := rest }.note .reset
  | false :: rest => { y with resets := rest }

/-- The host's turn: its next act, or the next statement taken up. -/
def System.host (y : System) : Except HostStop System :=
  match y.todo with
  | a :: rest => System.act { y with todo := rest } a
  | [] =>
    match y.prog[y.pos]? with
    | none => .error .finished
    | some st =>
      match y.expand st with
      | .ok acts => .ok { y with pos := y.pos + 1, todo := acts }
      | .error e => .error e

/-- One step of the whole: the platform's turn, then the host's. -/
def System.step (y : System) : Except HostStop System := y.platform.host

/-- At most `k` steps, up to where the host stops. -/
def System.run : Nat → System → System
  | 0, y => y
  | k + 1, y =>
    match y.step with
    | .ok z => System.run k z
    | .error _ => y

end Sys2Proof.Machine
end

