-- ==== Sys2Proof/Safety.lean ====
section
/-! DEFINITION. What claims are stated in: the invariant of the block, what a failed command may have changed, and the duties
of the host (70_reset_and_hazards.md, section 3). -/

namespace Sys2Proof.Machine

/-- A finite value of magnitude less than `b`. -/
def F64.Below (x : F64) (b : Nat) : Prop := ∃ neg mag, x = .fin neg mag ∧ mag < b * F64.one

/-- RES_VALID is clear or what one of the compensation commands leaves (10_state.md R28; 42 R120, 43 R140, R150). -/
def State.ResValidLegal (s : State) : Prop :=
  s.resValid = 0#9 ∨ s.resValid = validPt ∨ s.resValid = validRh ∨ s.resValid = validLux

/-- A slot with VALID = 0 holds zeros (10_state.md R30; 41_calibration.md R113, R115). -/
def State.SlotsZeroed (s : State) : Prop :=
  ∀ k : Fin 4, (s.cal[k]).valid = false → s.cal[k] = CalSlot.empty

/-- Slots at and above N_CAL_SLOTS do not exist: they stay empty (10_state.md R23, R30; log entry 9). -/
def State.AbsentEmpty (s : State) : Prop :=
  ∀ k : Fin 4, s.cfg.nCalSlots ≤ k.val → s.cal[k] = CalSlot.empty

/-- CRC_T_OK and CRC_H_OK are results of the CRC_RH that CRC_VALID tells of (10_state.md R23; 43 R145). -/
def State.CrcCoherent (s : State) : Prop := s.crcValid = false → s.crcTOk = false ∧ s.crcHOk = false

/-- IRES holds a zero-extended value of at most 20 bits or a sign-extended 16-bit value (10_state.md R27). -/
def State.IresLegal (s : State) : Prop := s.ires.toNat < 2 ^ 20 ∨ 2 ^ 32 - 2 ^ 15 ≤ s.ires.toNat

/-- Every result register holds a finite binary64 value (42 R126; 43 R142, R153, R155). -/
def State.ResultsFinite (s : State) : Prop := ∀ k : Fin 9, (F64.ofBits s.res[k]).finite = true

/-- LUX is never negative and never -0.0 (43_comp_humidity_light.md R152). -/
def State.LuxNonneg (s : State) : Prop := (s.res[3]).msb = false

/-- The integers 0 to 65535 as binary64, for the raw counts (43_comp_humidity_light.md R155). -/
def State.CountsWhole (s : State) : Prop :=
  ∀ k : Fin 9, 4 ≤ k.val → k.val ≤ 7 → ∃ n : Half, s.res[k] = (F64.i2f n.toNat).toBits

/-- The invariant of the block, but for the ranges of floating-point results. -/
structure State.Inv (s : State) : Prop where
  resValid : s.ResValidLegal
  zeroed : s.SlotsZeroed
  absent : s.AbsentEmpty
  crc : s.CrcCoherent
  ires : s.IresLegal
  lux : s.LuxNonneg
  counts : s.CountsWhole

/-- The command clears RES_VALID before its checks (60_exceptions.md R171). -/
def clearsResults : Instr → Bool
  | .nop => false
  | .decBe16 _ => false
  | .decLe16 _ => false
  | .dec20 _ => false
  | .toS16 => false
  | .calLoad _ => false
  | .calRelease _ => false
  | .compPt _ => true
  | .compRh => true
  | .compLux => true
  | .crcRh => false

/-- The command clears the CRC bits before its checks (60_exceptions.md R171). -/
def clearsCrc : Instr → Bool
  | .nop => false
  | .decBe16 _ => false
  | .decLe16 _ => false
  | .dec20 _ => false
  | .toS16 => false
  | .calLoad _ => false
  | .calRelease _ => false
  | .compPt _ => false
  | .compRh => false
  | .compLux => false
  | .crcRh => true

/-- `s` after the clearing writes that command `i` makes first (60_exceptions.md R171). -/
def State.afterClearing (s : State) (i : Instr) : State :=
  let r := if clearsResults i then s.setResValid 0#9 else s
  if clearsCrc i then r.setCrc false false false else r

/-- The error a command reports, by the causes of 60_exceptions.md R170 and R172 in the order of R175: the decode
checks, the slot's state, the length, the lux coefficients. -/
def errorOf (s : State) : Instr → ErrCode
  | .nop => .ok
  | .decBe16 off => bytesError off 2
  | .decLe16 off => bytesError off 2
  | .dec20 off => bytesError off 3
  | .toS16 => .ok
  | .calLoad slot =>
    if !slotExists s.cfg slot then .illegalCmd
    else if (s.cal[slot]).valid then .calLocked
    else if s.ibufLen ≠ 24#6 then .incompleteCal
    else .ok
  | .calRelease slot => if !slotExists s.cfg slot then .illegalCmd else .ok
  | .compPt slot =>
    if !slotExists s.cfg slot then .illegalCmd
    else if !(s.cal[slot]).valid then .notCalibrated
    else if s.ibufLen ≠ 6#6 then .incompleteSample
    else .ok
  | .compRh => if s.ibufLen ≠ 6#6 then .incompleteSample else .ok
  | .compLux =>
    if s.ibufLen ≠ 8#6 then .incompleteSample
    else if !(F64.ofBits s.luxKr).finite || !(F64.ofBits s.luxKc).finite then .badCoeff
    else if !(luxSum (F64.ofBits s.luxKr) (F64.ofBits s.luxKc) (s.le16At 0) (s.le16At 2)).finite then .badCoeff
    else .ok
  | .crcRh => if s.ibufLen ≠ 6#6 then .incompleteSample else .ok
where
  /-- The codec commands' causes: OFF out of range, then past IBUF_LEN. -/
  bytesError (off : Fin 32) (w : Nat) : ErrCode :=
    if 24 < off.val + w then .illegalCmd
    else if s.ibufLen.toNat < off.val + w then .incompleteSample
    else .ok

/-- Every event of a log, the latest first, is right after the ones before it. -/
def everyEvent (right : HostEvent → List HostEvent → Bool) : List HostEvent → Bool
  | [] => true
  | e :: before => right e before && everyEvent right before

/-- When `dev` last accepted a call that `p` picks; none if it has not since it was last power-cycled. A call that failed counts
as not made (log entry 24). -/
def lastAccepted (dev : Device) (p : BusCall → Bool) : List HostEvent → Option Nat
  | [] => none
  | .busStart _ _ :: before => lastAccepted dev p before
  | .busEnd time call reply :: before => if p call && reply == .accepted then some time else lastAccepted dev p before
  | .access _ _ :: before => lastAccepted dev p before
  | .reset :: before => lastAccepted dev p before
  | .initialise _ :: before => lastAccepted dev p before
  | .initialised _ _ :: before => lastAccepted dev p before
  | .fetch _ :: before => lastAccepted dev p before
  | .powerCycle d :: before => if d = dev then none else lastAccepted dev p before

/-- The measurement command of the humidity device (20_memory.md R61). -/
def rhTrigger : BusCall := .write (.device .rh) Sensor.rhCommand [Sensor.rhCommandData]

/-- Power-on of the colour device (20_memory.md R62). -/
def luxPowerOnWrite : BusCall := .write (.device .lux) (Sensor.luxWire Sensor.luxEnable) [Sensor.luxPowerOn]

/-- The gain write of the colour device (20_memory.md R62). -/
def luxGainWrite : BusCall := .write (.device .lux) (Sensor.luxWire Sensor.luxGain) [Config.luxGain]

/-- The waits a transaction needs that begins at `now` (70_reset_and_hazards.md R220): 15 ms after the humidity trigger, 3 ms from
power-on to ADC enable, 10 ms from the gain write to a colour read.
DESIGN CHOICE (log entry 25): the writes that begin and end a wait are known in the form of 70 R212 and R214 only, one register and
its value; as a part of a longer write_block they are not. -/
def waitOk (call : BusCall) (now : Nat) (before : List HostEvent) : Bool :=
  match call with
  | .read (.device .rh) _ _ => (lastAccepted .rh (· == rhTrigger) before).any (· + 15 ≤ now)
  | .write (.device .lux) reg bytes =>
    if reg == Sensor.luxWire Sensor.luxEnable && bytes == [Sensor.luxAdcOn] then
      (lastAccepted .lux (· == luxPowerOnWrite) before).any (· + 3 ≤ now)
    else true
  | .read (.device .lux) _ _ => (lastAccepted .lux (· == luxGainWrite) before).any (· + 10 ≤ now)
  | .read (.device (.pt _)) _ _ => true
  | .write (.device (.pt _)) _ _ => true
  | .write (.device .rh) _ _ => true
  | .read (.other _) _ _ => true
  | .write (.other _) _ _ => true

/-- A log keeps the settling waits (70_reset_and_hazards.md R220, D41). -/
def waitsKept : List HostEvent → Bool :=
  everyEvent fun e before =>
    match e with
    | .busStart now call => waitOk call now before
    | _ => true

/-- A triggered measurement completes (20_memory.md R64; 70_reset_and_hazards.md R224): no transaction with the humidity device
begins within 15 ms of its trigger, unless the device has been power-cycled since.
DESIGN CHOICE (log entry 24): a trigger write that has ended in a BusError or has been rejected has triggered no measurement. -/
def measurementsComplete : List HostEvent → Bool :=
  everyEvent fun e before =>
    match e with
    | .busStart now call =>
      call.addr != .device .rh || (lastAccepted .rh (· == rhTrigger) before).all (· + 15 ≤ now)
    | _ => true

/-- The transaction in flight. -/
def inFlight : List HostEvent → Option BusCall
  | [] => none
  | .busStart _ call :: _ => some call
  | .busEnd _ _ _ :: _ => none
  | .access _ _ :: before => inFlight before
  | .reset :: before => inFlight before
  | .initialise _ :: before => inFlight before
  | .initialised _ _ :: before => inFlight before
  | .fetch _ :: before => inFlight before
  | .powerCycle _ :: before => inFlight before

/-- At most one transaction is in flight at any time (20_memory.md R64; 70_reset_and_hazards.md R224): each begins with none in
flight, and a reply ends the one that is. -/
def serialised : List HostEvent → Bool :=
  everyEvent fun e before =>
    match e with
    | .busStart _ _ => inFlight before == none
    | .busEnd _ call _ => inFlight before == some call
    | _ => true

/-- The input the host last read of. -/
def latestInput : List HostEvent → Option Input
  | [] => none
  | .busEnd _ call _ :: before =>
    match call.input with
    | some inp => some inp
    | none => latestInput before
  | .busStart _ _ :: before => latestInput before
  | .access _ _ :: before => latestInput before
  | .reset :: before => latestInput before
  | .initialise _ :: before => latestInput before
  | .initialised _ _ :: before => latestInput before
  | .fetch _ :: before => latestInput before
  | .powerCycle _ :: before => latestInput before

/-- A port event writes a word of IBUF. -/
def PortEvent.writesIbuf : PortEvent → Bool
  | .read _ => false
  | .write off _ => decide (∃ k, off = (Reg.ibufW k).offset)
  | .reset => false

/-- A port event writes IBUF_LEN. -/
def PortEvent.writesLength : PortEvent → Bool
  | .read _ => false
  | .write off _ => decide (off = Reg.ibufLen.offset)
  | .reset => false

/-- The input the host had last read of when it last made an access that `p` picks; none since a reset of the block, which empties
IBUF. -/
def inputAt (p : PortEvent → Bool) : List HostEvent → Option Input
  | [] => none
  | .access e _ :: before => if p e then latestInput before else inputAt p before
  | .reset :: _ => none
  | .busStart _ _ :: before => inputAt p before
  | .busEnd _ _ _ :: before => inputAt p before
  | .initialise _ :: before => inputAt p before
  | .initialised _ _ :: before => inputAt p before
  | .fetch _ :: before => inputAt p before
  | .powerCycle _ :: before => inputAt p before

/-- The inputs IBUF and its length stand for.
DESIGN CHOICE (log entry 22): each is the input the host had last read of when it wrote them. -/
def loadedInputs (before : List HostEvent) : List Input :=
  (inputAt PortEvent.writesIbuf before).toList ++ (inputAt PortEvent.writesLength before).toList

/-- The inputs a command reads from IBUF (60_exceptions.md R172). A codec command names none and reads what IBUF holds. -/
def commandInputs (before : List HostEvent) : Instr → List Input
  | .nop => []
  | .decBe16 _ => loadedInputs before
  | .decLe16 _ => loadedInputs before
  | .dec20 _ => loadedInputs before
  | .toS16 => []
  | .calLoad slot => [.calibration slot]
  | .calRelease _ => []
  | .compPt slot => [.sample (.pt slot)]
  | .compRh => [.sample .rh]
  | .compLux => [.sample .lux]
  | .crcRh => [.sample .rh]

/-- The devices a command is for (60_exceptions.md R173): those of the inputs it reads, and of CAL_RELEASE the instance its slot
names (10_state.md R34). -/
def commandDevices (before : List HostEvent) : Instr → List Device
  | .nop => []
  | .decBe16 off => (commandInputs before (.decBe16 off)).map Input.dev
  | .decLe16 off => (commandInputs before (.decLe16 off)).map Input.dev
  | .dec20 off => (commandInputs before (.dec20 off)).map Input.dev
  | .toS16 => []
  | .calLoad slot => [.pt slot]
  | .calRelease slot => [.pt slot]
  | .compPt slot => [.pt slot]
  | .compRh => [.rh]
  | .compLux => [.lux]
  | .crcRh => [.rh]

/-- A log in which every command is right after the events before it. -/
def everyCommand (cfg : Params) (right : Instr → List HostEvent → Bool) : List HostEvent → Bool :=
  everyEvent fun e before =>
    match e with
    | .access a _ => (a.command cfg).all fun i => right i before
    | _ => true

/-- The initialisation contract (70_reset_and_hazards.md R213; 60_exceptions.md R173): no command for a device whose initialisation
has failed, and a compensation command only for a device the host has a handle for. -/
def contractKept (cfg : Params) : List HostEvent → Bool :=
  everyCommand cfg fun i before =>
    (commandDevices before i).all fun dev => initOf dev before != .failed && (!clearsResults i || handleIn before dev)

/-- The latest CAL_LOAD of `slot` since its device's initialisation began has ended with OK. -/
def loadedSince (cfg : Params) (slot : Fin 4) : List HostEvent → Bool
  | [] => false
  | .busStart _ _ :: before => loadedSince cfg slot before
  | .busEnd _ _ _ :: before => loadedSince cfg slot before
  | .access e err :: before => if e.command cfg = some (.calLoad slot) then err == .ok else loadedSince cfg slot before
  | .reset :: before => loadedSince cfg slot before
  | .initialise dev :: before => if dev = .pt slot then false else loadedSince cfg slot before
  | .initialised _ _ :: before => loadedSince cfg slot before
  | .fetch _ :: before => loadedSince cfg slot before
  | .powerCycle _ :: before => loadedSince cfg slot before

/-- A pressure device's initialisation yields a handle only where its CAL_LOAD has succeeded (70_reset_and_hazards.md R211). -/
def handlesLoaded (cfg : Params) : List HostEvent → Bool :=
  everyEvent fun e before =>
    match e with
    | .initialised (.pt slot) .handle => loadedSince cfg slot before
    | _ => true

/-- The ordering duty of 41_calibration.md R114 and 70_reset_and_hazards.md R211: no write of a pressure device's control register
and no read of its results begins unless the latest CAL_LOAD of its slot has succeeded. -/
def loadsFirst (cfg : Params) : List HostEvent → Bool :=
  everyEvent fun e before =>
    match e with
    | .busStart _ call => (List.finRange 4).all fun slot => !call.usesPt slot || loadedSince cfg slot before
    | _ => true

/-- The transaction of `inp` that an event ends, and the bytes received; none where it is no such event. -/
def HostEvent.fetched (inp : Input) : HostEvent → Option (BusCall × Nat)
  | .busEnd _ call reply => if call.reads inp then some (call, (reply.bytes call.asked).length) else none
  | .busStart _ _ => none
  | .access _ _ => none
  | .reset => none
  | .initialise _ => none
  | .initialised _ _ => none
  | .fetch _ => none
  | .powerCycle _ => none

/-- A read of `inp` has failed or come short (60_exceptions.md R173 counts a short read as a BusError). -/
def HostEvent.short (inp : Input) (e : HostEvent) : Bool := (e.fetched inp).any fun p => decide (p.2 < p.1.asked)

/-- Two calls ask for the same register of `inp`. -/
def BusCall.overlaps (inp : Input) (c d : BusCall) : Bool :=
  inp.registers.any fun r => c.covers c.asked r && d.covers d.asked r

/-- The reads of the fetch of `inp` under way, each with the bytes it received, the latest first. A fetch begins where the host notes
it, and with a read of a register that the fetch before it has read or tried to read.
DESIGN CHOICE (log entry 16): the spec does not say where one fetch ends and the next begins. -/
def fetchReads (inp : Input) : List HostEvent → List (BusCall × Nat)
  | [] => []
  | e :: before =>
    if e = .fetch inp then []
    else
      let reads := fetchReads inp before
      match e.fetched inp with
      | none => reads
      | some p => if reads.any fun q => p.1.overlaps inp q.1 then [p] else p :: reads

/-- The fetch under way has read every register of `inp`, and no read of it has failed or come short. -/
def wholeFetch (inp : Input) (log : List HostEvent) : Bool :=
  ((fetchReads inp log).all fun p => decide (p.1.asked ≤ p.2)) &&
    inp.registers.all fun r => (fetchReads inp log).any fun p => p.1.covers p.2 r

/-- A read of `inp` has failed or come short, and no fetch of it has been whole since: partial reads are no resumable state
(20_memory.md R64), so one failure fails the whole fetch, and only a new one, whole by itself, mends it.
DESIGN CHOICE (log entry 16): 60_exceptions.md R173 does not say how long the duty after a BusError lasts. It begins with the failed
read and ends for good where a fetch becomes whole; a later fetch arms it again only by a failure of its own. -/
def fetchFailed (inp : Input) : List HostEvent → Bool
  | [] => false
  | e :: before => !wholeFetch inp (e :: before) && (e.short inp || fetchFailed inp before)

/-- The number of bytes the fetch under way has received. -/
def bytesReceived (inp : Input) (log : List HostEvent) : Nat := ((fetchReads inp log).map (·.2)).sum

/-- The length the host last wrote to IBUF_LEN, bits [5:0] (10_state.md R26), if it has written one since it last read of `inp` or
began to fetch it.
DESIGN CHOICE (log entry 27): a reset of the block after the write leaves IBUF_LEN 0, which raises the length error too, so what the
host has written still counts. -/
def lengthReported (inp : Input) : List HostEvent → Option Nat
  | [] => none
  | .access (.write off v) _ :: before =>
    if off = Reg.ibufLen.offset then some (v.toNat % 64) else lengthReported inp before
  | .access (.read _) _ :: before => lengthReported inp before
  | .access .reset _ :: before => lengthReported inp before
  | .busStart _ _ :: before => lengthReported inp before
  | .busEnd _ call _ :: before => if call.reads inp then none else lengthReported inp before
  | .reset :: before => lengthReported inp before
  | .initialise _ :: before => lengthReported inp before
  | .initialised _ _ :: before => lengthReported inp before
  | .fetch i :: before => if i = inp then none else lengthReported inp before
  | .powerCycle _ :: before => lengthReported inp before

/-- The duty after a BusError (20_memory.md R63; 60_exceptions.md R173; 70_reset_and_hazards.md R224): after a failed fetch no
command that reads its input, or one after the number of bytes received has been written to IBUF_LEN, which raises the length
error. -/
def busErrorsReported (cfg : Params) : List HostEvent → Bool :=
  everyCommand cfg fun i before =>
    (commandInputs before i).all fun inp =>
      !fetchFailed inp before ||
        (lengthReported inp before == some (bytesReceived inp before) && bytesReceived inp before != inp.length)

/-- The reload duty (70_reset_and_hazards.md R202): after a reset of the block a slot is loaded again before COMP_PT of it.
DESIGN CHOICE (log entry 23): R202's "every calibration slot" is asked of the slot that the COMP_PT uses. -/
def slotsReloaded (cfg : Params) : List HostEvent → Bool :=
  everyCommand cfg fun i before =>
    match i with
    | .compPt slot => loadedIn cfg slot before
    | _ => true

/-- The duties of the host that its log tells of: settling waits, bus serialisation, the initialisation contract, the length after
a BusError, CAL_LOAD before a pressure device is used, and the reload after a reset (20_memory.md R64; 41_calibration.md R114;
60_exceptions.md R173; 70_reset_and_hazards.md R202, R211, R213, R220, R224). -/
def dutiesKept (cfg : Params) (log : List HostEvent) : Bool :=
  waitsKept log && measurementsComplete log && serialised log && contractKept cfg log && busErrorsReported cfg log &&
    loadsFirst cfg log && slotsReloaded cfg log

/-- Which halves of the lux coefficients have been written and not yet matched. -/
structure Halves where
  krLo : Bool
  krHi : Bool
  kcLo : Bool
  kcHi : Bool
deriving DecidableEq, Repr

/-- No half has been written. -/
def Halves.none : Halves := ⟨false, false, false, false⟩

/-- Both halves or neither, of each coefficient. -/
def Halves.matched (h : Halves) : Bool := h.krLo == h.krHi && h.kcLo == h.kcHi

/-- The halves written after one more event. -/
def Halves.note (h : Halves) : PortEvent → Halves
  | .read _ => h
  | .write off _ =>
    if off = Reg.luxKrLo.offset then { h with krLo := true }
    else if off = Reg.luxKrHi.offset then { h with krHi := true }
    else if off = Reg.luxKcLo.offset then { h with kcLo := true }
    else if off = Reg.luxKcHi.offset then { h with kcHi := true }
    else h
  | .reset => Halves.none

/-- The host's duty of 70_reset_and_hazards.md R221: at every COMP_LUX both halves of each coefficient changed since the
one before have been written. -/
def luxDuty (cfg : Params) (h : Halves) : List PortEvent → Bool
  | [] => true
  | e :: rest =>
    if e.command cfg = some .compLux then h.matched && luxDuty cfg Halves.none rest
    else luxDuty cfg (h.note e) rest

/-- The host has begun to write the control register of the pressure device of `slot`, with whatever value. -/
def System.controlWritten (y : System) (slot : Fin 4) : Bool :=
  y.log.any fun e =>
    match e with
    | .busStart _ (.write addr reg bytes) => (BusCall.write addr reg bytes).usesPt slot
    | _ => false

/-- The duty of 41_calibration.md R114 in the block's own state: where a pressure device's control register has been written, its
slot is loaded. -/
def System.ControlAfterLoad (y : System) (slot : Fin 4) : Prop :=
  y.controlWritten slot = true → (y.scp.cal[slot]).valid = true

end Sys2Proof.Machine
end

