-- ==== Sys2Proof/Certificates/Slice0/Obligations.lean ====
section
/-! DEFINITION. The statements about the model, one `def Obligations.<Name> : Prop` each. A command's next state is written as
the state before it with the fields it changes, so a statement of a result is a statement of the frame as well. -/

open Sys2Proof Sys2Proof.Machine

/-! ## Encoding -/

/-- Decoding the word of a command with legal fields gives the command back (30_encoding.md R71, R72, R74, R75). -/
def Obligations.DecodeOfEncodeGivesTheCommand : Prop :=
  ∀ (cfg : Params) (i : Instr), i.wf cfg = true → decode cfg (encode i) = .ok i

/-- A word that decodes is the word of the command it decodes to: no bit of it is dropped (R70, R75). -/
def Obligations.EncodeOfDecodeGivesTheWord : Prop :=
  ∀ (cfg : Params) (w : Word) (i : Instr), decode cfg w = .ok i → encode i = w

/-- 30_encoding.md R75: which words decode, to which command, that every other word raises ILLEGAL_CMD, and that the rows of
opcode_table.json capture all of it but the OFF and SLOT bounds. -/
def Obligations.DecodeFollowsTheDecodeRule : Prop :=
  (∀ w : Word, (∃ i, parse w = .ok i) ↔ ∃ r ∈ opcodeTable, r.holds w = true) ∧
  ∀ (w : Word) (s : State),
    let opc := w.toNat % 256
    let off := w.toNat / 256 % 32
    let slot := w.toNat / 65536 % 4
    let n := w.toNat / 256 = 0
    let o := w.toNat / 8192 = 0
    let d := w.toNat / 262144 = 0 ∧ w.toNat / 256 % 256 = 0 ∧ slot < s.cfg.nCalSlots
    let runs (i : Instr) := execute w s = exec i s
    let illegal := execute w s = .next { s with err := .illegalCmd, errs := true }
    (opc = 0x00 → if n then runs .nop else illegal) ∧
    (opc = 0x01 → if o ∧ off ≤ 22 then ∃ k : Fin 32, k.val = off ∧ runs (.decBe16 k) else illegal) ∧
    (opc = 0x02 → if o ∧ off ≤ 22 then ∃ k : Fin 32, k.val = off ∧ runs (.decLe16 k) else illegal) ∧
    (opc = 0x03 → if o ∧ off ≤ 21 then ∃ k : Fin 32, k.val = off ∧ runs (.dec20 k) else illegal) ∧
    (opc = 0x04 → if n then runs .toS16 else illegal) ∧
    (opc = 0x10 → if d then ∃ k : Fin 4, k.val = slot ∧ runs (.calLoad k) else illegal) ∧
    (opc = 0x11 → if d then ∃ k : Fin 4, k.val = slot ∧ runs (.calRelease k) else illegal) ∧
    (opc = 0x20 → if d then ∃ k : Fin 4, k.val = slot ∧ runs (.compPt k) else illegal) ∧
    (opc = 0x21 → if n then runs .compRh else illegal) ∧
    (opc = 0x22 → if n then runs .compLux else illegal) ∧
    (opc = 0x23 → if n then runs .crcRh else illegal) ∧
    (opc ∉ [0x00, 0x01, 0x02, 0x03, 0x04, 0x10, 0x11, 0x20, 0x21, 0x22, 0x23] → illegal)

/-- Exactly one row of opcode_table.json holds a word that parses, that of its command; and a decoded word is in a row (R75). -/
def Obligations.OneOpcodeRowHoldsEachWord : Prop :=
  ∀ (w : Word) (i : Instr), parse w = .ok i →
    i.row ∈ opcodeTable ∧ i.row.holds w = true ∧ ∀ r ∈ opcodeTable, r.holds w = true → r = i.row

/-- 30_encoding.md R76: reserved opcodes and nonzero unused fields raise ILLEGAL_CMD, which changes only STATUS; NOP alone
does nothing but set ERR to OK. -/
def Obligations.ReservedEncodingsRaiseIllegalCmd : Prop :=
  (∀ (w : Word) (s : State),
    ((0x05 ≤ w.toNat % 256 ∧ w.toNat % 256 ≤ 0x0F) ∨ (0x12 ≤ w.toNat % 256 ∧ w.toNat % 256 ≤ 0x1F) ∨
      0x24 ≤ w.toNat % 256 ∨ 262144 ≤ w.toNat ∨
      (w.toNat % 256 ∈ [0x00, 0x04, 0x21, 0x22, 0x23] ∧ w.toNat / 256 ≠ 0) ∨
      (w.toNat % 256 ∈ [0x01, 0x02, 0x03] ∧ w.toNat / 8192 ≠ 0) ∨
      (w.toNat % 256 ∈ [0x10, 0x11, 0x20] ∧ w.toNat / 256 % 256 ≠ 0)) →
    execute w s = .next { s with err := .illegalCmd, errs := true }) ∧
  ∀ i : Instr, (∀ s : State, exec i s = .next { s with err := .ok }) ↔ i = .nop

/-- 30_encoding.md R80: the encoding examples and the illegal examples. -/
def Obligations.EncodingExamplesDecode : Prop :=
  (∀ cfg : Params,
    decode cfg 0x00000000#32 = .ok .nop ∧ decode cfg 0x00000301#32 = .ok (.decBe16 3) ∧
    decode cfg 0x00000002#32 = .ok (.decLe16 0) ∧ decode cfg 0x00000303#32 = .ok (.dec20 3) ∧
    decode cfg 0x00000004#32 = .ok .toS16 ∧ decode cfg 0x00000010#32 = .ok (.calLoad 0) ∧
    (1 < cfg.nCalSlots → decode cfg 0x00010010#32 = .ok (.calLoad 1)) ∧
    decode cfg 0x00000011#32 = .ok (.calRelease 0) ∧ decode cfg 0x00000020#32 = .ok (.compPt 0) ∧
    decode cfg 0x00000021#32 = .ok .compRh ∧ decode cfg 0x00000022#32 = .ok .compLux ∧
    decode cfg 0x00000023#32 = .ok .crcRh ∧
    decode cfg 0x00000005#32 = .error .reservedOpcode ∧ decode cfg 0x00000121#32 = .error .reservedBits ∧
    decode cfg 0x00001701#32 = .error .operandRange ∧
    (cfg.nCalSlots = 1 → decode cfg 0x00010020#32 = .error .operandRange)) ∧
  encode .nop = 0x00000000#32 ∧ encode (.decBe16 3) = 0x00000301#32 ∧ encode (.decLe16 0) = 0x00000002#32 ∧
    encode (.dec20 3) = 0x00000303#32 ∧ encode .toS16 = 0x00000004#32 ∧ encode (.calLoad 0) = 0x00000010#32 ∧
    encode (.calLoad 1) = 0x00010010#32 ∧ encode (.calRelease 0) = 0x00000011#32 ∧
    encode (.compPt 0) = 0x00000020#32 ∧ encode .compRh = 0x00000021#32 ∧ encode .compLux = 0x00000022#32 ∧
    encode .crcRh = 0x00000023#32

/-- A step over a write of CMD runs the decoded command in the state that no longer holds the event (44_control.md R160,
R161), and `withFetchWord` is such a write. -/
def Obligations.StepRunsTheDecodedCommand : Prop :=
  (∀ (s : State) (w : Word) (rest : List PortEvent) (i : Instr),
    s.port = .write 0x004#12 w :: rest → decode s.cfg w = .ok i → step s = exec i { s with port := rest }) ∧
  ∀ (s : State) (w : Word) (i : Instr), decode s.cfg w = .ok i → step (s.withFetchWord 32 w.toNat) = exec i s

/-- Given to a command directly, a field outside the range of R75 raises ILLEGAL_CMD as its word does (log entry 10). -/
def Obligations.IllFormedFieldsRaiseIllegalCmd : Prop :=
  ∀ (s : State) (i : Instr), i.wf s.cfg = false → exec i s = .next { s with err := .illegalCmd, errs := true }

/-! ## Reset and invariants -/

/-- 10_state.md R35: the state after reset, as fields and as the host reads it. -/
def Obligations.ResetLeavesTheCollectedValues : Prop :=
  let s := State.reset
  s.readReg .id = 0x53435007#32 ∧ s.status = 0x00000000#32 ∧ s.err = .ok ∧ s.errs = false ∧ s.crcValid = false ∧
    s.crcTOk = false ∧ s.crcHOk = false ∧ s.calValid = 0#4 ∧ (∀ i : Fin 24, s.ibuf[i] = 0x00#8) ∧ s.ibufLen = 0#6 ∧
    s.ires = 0#32 ∧ (∀ k : Fin 9, s.res[k] = 0#64) ∧ s.resValid = 0#9 ∧ s.luxKr = 0xBFD4C73ABC947065#64 ∧
    s.luxKc = 0x3FF94100E6AFCCE2#64 ∧
    ∀ k : Fin 4, (s.cal[k]).valid = false ∧ ∀ c : Fin 12, (s.cal[k]).coef[c] = 0x0000#16

/-- A pulse of the reset input puts the block in its reset state from any state (70_reset_and_hazards.md R200). That the
parameters and the host's own record stay is the model's (log entries 1 and 5). -/
def Obligations.ResetPulseResetsTheBlock : Prop :=
  ∀ (s : State) (rest : List PortEvent), s.port = .reset :: rest →
    step s = .next { State.reset with cfg := s.cfg, port := rest, observed := s.observed }

/-- The invariant holds at reset (10_state.md R35). -/
def Obligations.InvariantHoldsAtReset : Prop := State.reset.Inv ∧ State.reset.ResultsFinite

/-- Every step keeps the invariant, from any state that has it: legal RES_VALID, zeroed invalid slots, empty absent slots,
coherent CRC bits, legal IRES, non-negative LUX, whole raw counts. -/
def Obligations.EveryStepKeepsTheInvariant : Prop :=
  ∀ s t : State, s.Inv → step s = .next t → t.Inv

/-- Every step keeps every result register finite (42 R126; 43 R142, R153, R155). -/
def Obligations.EveryStepKeepsResultsFinite : Prop :=
  ∀ s t : State, s.ResultsFinite → step s = .next t → t.ResultsFinite

/-- The parameters are fixed: no step changes them (10_state.md R20; the model keeps them in State, log entry 1). -/
def Obligations.EveryStepKeepsTheParameters : Prop :=
  ∀ s t : State, step s = .next t → t.cfg = s.cfg

/-! ## The host port -/

/-- 20_memory.md R44: a host read of an aligned offset returns what the map of R40 gives, 0 at a reserved offset, and changes
nothing but what the host has seen; a misaligned one has no step. -/
def Obligations.HostReadReturnsTheMappedValue : Prop :=
  ∀ (s : State) (off : Off) (rest : List PortEvent), s.port = .read off :: rest →
    let returns (v : Word) := step s = .next { s with port := rest, observed := s.observed ++ [v] }
    (off.toNat % 4 ≠ 0 → step s = .fault (.misalignedAccess off)) ∧
    (off.toNat = 0x000 → returns 0x53435007#32) ∧
    (off.toNat = 0x004 → returns 0#32) ∧
    (off.toNat = 0x008 → returns s.status) ∧
    (off.toNat = 0x00C → returns (BitVec.ofNat 32 s.ibufLen.toNat)) ∧
    (∀ k : Fin 6, off.toNat = 0x010 + 4 * k.val → ∃ v : Word, returns v ∧
      ∀ (j : Fin 4), (v.extractLsb' (8 * j.val) 8).toNat = (s.ibuf[4 * k.val + j.val]).toNat) ∧
    (off.toNat = 0x028 → returns s.ires) ∧
    (off.toNat = 0x02C → returns (BitVec.ofNat 32 s.resValid.toNat)) ∧
    (off.toNat = 0x030 → returns (s.luxKr.extractLsb' 0 32)) ∧
    (off.toNat = 0x034 → returns (s.luxKr.extractLsb' 32 32)) ∧
    (off.toNat = 0x038 → returns (s.luxKc.extractLsb' 0 32)) ∧
    (off.toNat = 0x03C → returns (s.luxKc.extractLsb' 32 32)) ∧
    (∀ k : Fin 9, off.toNat = 0x040 + 8 * k.val → returns ((s.res[k]).extractLsb' 0 32)) ∧
    (∀ k : Fin 9, off.toNat = 0x044 + 8 * k.val → returns ((s.res[k]).extractLsb' 32 32)) ∧
    (∀ (c : Fin 4) (k : Fin 12), c.val < s.cfg.nCalSlots → off.toNat = 0x100 + 0x40 * c.val + 4 * k.val →
      returns (if k = 0 ∨ k = 3 then ((s.cal[c]).coef[k]).zeroExtend 32 else ((s.cal[c]).coef[k]).signExtend 32)) ∧
    (∀ (c : Fin 4) (k : Fin 16), off.toNat = 0x100 + 0x40 * c.val + 4 * k.val →
      12 ≤ k.val ∨ s.cfg.nCalSlots ≤ c.val → returns 0#32) ∧
    (off.toNat % 4 = 0 → (0x088 ≤ off.toNat ∧ off.toNat < 0x100) ∨ 0x200 ≤ off.toNat → returns 0#32)

/-- 20_memory.md R45: what a host write does, offset by offset. -/
def Obligations.HostWriteFollowsTheWriteRule : Prop :=
  ∀ (s : State) (off : Off) (v : Word) (rest : List PortEvent), s.port = .write off v :: rest →
    (off.toNat % 4 ≠ 0 → step s = .fault (.misalignedAccess off)) ∧
    (off.toNat = 0x004 → step s = execute v { s with port := rest }) ∧
    (off.toNat = 0x008 → step s = .next { s with port := rest, errs := if v.getLsbD 4 then false else s.errs }) ∧
    (off.toNat = 0x00C → step s = .next { s with port := rest, ibufLen := BitVec.ofNat 6 v.toNat }) ∧
    (∀ k : Fin 6, off.toNat = 0x010 + 4 * k.val → ∃ b : Vector Byte 24,
      step s = .next { s with port := rest, ibuf := b } ∧
      ∀ i : Fin 24, b[i] = if i.val / 4 = k.val then v.extractLsb' (8 * (i.val % 4)) 8 else s.ibuf[i]) ∧
    (off.toNat = 0x030 → step s = .next { s with port := rest, luxKr := s.luxKr.extractLsb' 32 32 ++ v }) ∧
    (off.toNat = 0x034 → step s = .next { s with port := rest, luxKr := v ++ s.luxKr.extractLsb' 0 32 }) ∧
    (off.toNat = 0x038 → step s = .next { s with port := rest, luxKc := s.luxKc.extractLsb' 32 32 ++ v }) ∧
    (off.toNat = 0x03C → step s = .next { s with port := rest, luxKc := v ++ s.luxKc.extractLsb' 0 32 }) ∧
    (off.toNat % 4 = 0 → off.toNat = 0x000 ∨ (0x028 ≤ off.toNat ∧ off.toNat < 0x030) ∨ 0x040 ≤ off.toNat →
      step s = .next { s with port := rest })

/-- 20_memory.md R46: a write of CMD is the only access that does more than store: any other access leaves every result, every
slot and every status bit but ERRS, which it can only clear. -/
def Obligations.OnlyCmdWritesRunCommands : Prop :=
  ∀ (s t : State) (e : PortEvent) (rest : List PortEvent), s.port = e :: rest → e ≠ .reset →
    (∀ w, e ≠ .write 0x004#12 w) → step s = .next t →
    t.err = s.err ∧ (s.errs = false → t.errs = false) ∧ t.crcValid = s.crcValid ∧ t.crcTOk = s.crcTOk ∧
      t.crcHOk = s.crcHOk ∧ t.ires = s.ires ∧ t.res = s.res ∧ t.resValid = s.resValid ∧ t.cal = s.cal ∧ t.port = rest

/-- 10_state.md R21: ID reads the same in every state. -/
def Obligations.IdAlwaysReadsItsConstant : Prop :=
  ∀ s : State, s.readAt 0x000#12 = 0x53435007#32 ∧ (s.readAt 0x000#12).extractLsb' 0 8 = 7#8 ∧
    (s.readAt 0x000#12).extractLsb' 8 24 = 0x534350#24

/-- 10_state.md R23 and 60_exceptions.md R170: the fields of STATUS and the numbers of the codes, what a host write changes of it, who writes the CRC bits, and its reset. -/
def Obligations.StatusHoldsItsFields : Prop :=
  (∀ s : State,
    (s.status.extractLsb' 0 4).toNat = (match s.err with
        | .ok => 0
        | .incompleteCal => 1
        | .incompleteSample => 2
        | .notCalibrated => 3
        | .calLocked => 4
        | .illegalCmd => 5
        | .badCoeff => 6) ∧
      s.status.getLsbD 4 = s.errs ∧
      s.status.getLsbD 5 = s.crcValid ∧ s.status.getLsbD 6 = s.crcTOk ∧ s.status.getLsbD 7 = s.crcHOk ∧
      s.status.extractLsb' 8 8 = 0#8 ∧
      (∀ k : Fin 4, s.status.getLsbD (16 + k.val) = (decide (k.val < s.cfg.nCalSlots) && (s.cal[k]).valid)) ∧
      s.status.extractLsb' 20 12 = 0#12) ∧
  (∀ (s : State) (v : Word), s.writeAt 0x008#12 v = { s with errs := if v.getLsbD 4 then false else s.errs }) ∧
  (∀ (s t : State) (i : Instr), i ≠ .crcRh → exec i s = .next t →
    t.crcValid = s.crcValid ∧ t.crcTOk = s.crcTOk ∧ t.crcHOk = s.crcHOk) ∧
  State.reset.status = 0#32

/-- 10_state.md R29: a host write of one half of a lux coefficient leaves the other half, for both coefficients, and any pattern
written in two halves, in either order, reads back. -/
def Obligations.LuxCoefficientHalvesAreIndependent : Prop :=
  ∀ (s : State) (p : DWord),
    let lo := p.extractLsb' 0 32
    let hi := p.extractLsb' 32 32
    let kr := { s with luxKr := p }
    let kc := { s with luxKc := p }
    (s.writeAt 0x030#12 lo).writeAt 0x034#12 hi = kr ∧ (s.writeAt 0x034#12 hi).writeAt 0x030#12 lo = kr ∧
      (s.writeAt 0x038#12 lo).writeAt 0x03C#12 hi = kc ∧ (s.writeAt 0x03C#12 hi).writeAt 0x038#12 lo = kc ∧
      kr.readAt 0x030#12 = lo ∧ kr.readAt 0x034#12 = hi ∧ kc.readAt 0x038#12 = lo ∧ kc.readAt 0x03C#12 = hi ∧
      (s.writeAt 0x030#12 lo).readAt 0x034#12 = s.readAt 0x034#12 ∧
      (s.writeAt 0x034#12 hi).readAt 0x030#12 = s.readAt 0x030#12 ∧
      (s.writeAt 0x038#12 lo).readAt 0x03C#12 = s.readAt 0x03C#12 ∧
      (s.writeAt 0x03C#12 hi).readAt 0x038#12 = s.readAt 0x038#12

/-- The LDBUF accesses load a byte list of at most 24 bytes and its length, and leave the words they do not need (30_encoding.md
R79). -/
def Obligations.LdbufLoadsTheBytes : Prop :=
  ∀ (s : State) (bs : List Byte) (rest : List PortEvent), bs.length ≤ 24 →
    ∃ b : Vector Byte 24,
      Host.Core.run Sys2Proof.core (ldbufAccesses bs).length { s with port := ldbufAccesses bs ++ rest } =
        .next { s with port := rest, ibuf := b, ibufLen := BitVec.ofNat 6 bs.length } ∧
      ∀ i : Fin 24, b[i] = if i.val < 4 * ((bs.length + 3) / 4) then bs.getD i.val 0#8 else s.ibuf[i]

/-! ## Register Codec -/

/-- DEC_BE16 completes with the big-endian pair and leaves everything but IRES and ERR (40_codec.md R100, R101). -/
def Obligations.DecBe16CombinesBigEndian : Prop :=
  ∀ (s : State) (off : Fin 32) (_ : off.val + 2 ≤ 24), off.val + 2 ≤ s.ibufLen.toNat →
    ∃ v : Word, exec (.decBe16 off) s = .next { s with ires := v, err := .ok } ∧
      v.toNat = 256 * (s.ibuf[off.val]).toNat + (s.ibuf[off.val + 1]).toNat

/-- DEC_LE16 completes with the little-endian pair and leaves everything but IRES and ERR (40_codec.md R100, R102). -/
def Obligations.DecLe16CombinesLittleEndian : Prop :=
  ∀ (s : State) (off : Fin 32) (_ : off.val + 2 ≤ 24), off.val + 2 ≤ s.ibufLen.toNat →
    ∃ v : Word, exec (.decLe16 off) s = .next { s with ires := v, err := .ok } ∧
      v.toNat = (s.ibuf[off.val]).toNat + 256 * (s.ibuf[off.val + 1]).toNat

/-- DEC_20 completes with the packed 20-bit value and leaves everything but IRES and ERR (40_codec.md R100, R103). -/
def Obligations.Dec20UnpacksTwentyBits : Prop :=
  ∀ (s : State) (off : Fin 32) (_ : off.val + 3 ≤ 24), off.val + 3 ≤ s.ibufLen.toNat →
    ∃ v : Word, exec (.dec20 off) s = .next { s with ires := v, err := .ok } ∧
      v.toNat = 4096 * (s.ibuf[off.val]).toNat + 16 * (s.ibuf[off.val + 1]).toNat + (s.ibuf[off.val + 2]).toNat / 16

/-- TO_S16 completes in every state, with IRES[15:0] reinterpreted as signed; twice is as once (40_codec.md R104). -/
def Obligations.ToS16ReinterpretsAsSigned : Prop :=
  ∀ s : State, ∃ v : Word, exec .toS16 s = .next { s with ires := v, err := .ok } ∧
    (let u := s.ires.toNat % 65536
     v.toInt = if 32767 < u then (u : Int) - 65536 else (u : Int)) ∧
    exec .toS16 { s with ires := v, err := .ok } = .next { s with ires := v, err := .ok }

/-- 40_codec.md R100: a codec command whose bytes pass IBUF_LEN raises INCOMPLETE_SAMPLE and changes nothing else; with
IBUF_LEN above 24 the check always passes. -/
def Obligations.CodecFetchChecksTheLength : Prop :=
  ∀ (s : State) (off : Fin 32),
    let raises := { s with err := .incompleteSample, errs := true }
    (off.val + 2 ≤ 24 → s.ibufLen.toNat < off.val + 2 →
      exec (.decBe16 off) s = .next raises ∧ exec (.decLe16 off) s = .next raises) ∧
    (off.val + 3 ≤ 24 → s.ibufLen.toNat < off.val + 3 → exec (.dec20 off) s = .next raises) ∧
    (24 < s.ibufLen.toNat →
      (off.val + 2 ≤ 24 → (∃ v, exec (.decBe16 off) s = .next { s with ires := v, err := .ok }) ∧
        ∃ v, exec (.decLe16 off) s = .next { s with ires := v, err := .ok }) ∧
      (off.val + 3 ≤ 24 → ∃ v, exec (.dec20 off) s = .next { s with ires := v, err := .ok }))

/-- 40_codec.md R105: the laws of the codec. -/
def Obligations.CodecLawsHold : Prop :=
  (∀ (s : State) (x : Int), -32768 ≤ x → x ≤ 32767 → s.ires.extractLsb' 0 16 = enc16 x →
    ∃ t, exec .toS16 s = .next t ∧ t.ires.toInt = x) ∧
  (∀ v : Half, enc16 (toSigned16 v) = v) ∧
  (∀ a b c : Byte, (dec20 a b c).toNat = (be16 a b).toNat * 16 ||| c.toNat / 16) ∧
  ∀ a b : Byte, le16 a b = be16 b a

/-! ## Calibration Store -/

/-- CAL_LOAD on an invalid slot with 24 bytes completes: coefficient k is the little-endian word at IBUF[2k], VALID is 1, and
nothing else but ERR changes (41_calibration.md R110, R111). -/
def Obligations.CalLoadParsesTheBlock : Prop :=
  ∀ (s : State) (slot : Fin 4), slot.val < s.cfg.nCalSlots → (s.cal[slot]).valid = false → s.ibufLen = 24#6 →
    ∃ v : Vector Half 12, exec (.calLoad slot) s = .next { s with cal := s.cal.set slot ⟨true, v⟩, err := .ok } ∧
      ∀ k : Fin 12, (v[k]).toNat = (s.ibuf[2 * k.val]).toNat + 256 * (s.ibuf[2 * k.val + 1]).toNat

/-- 41_calibration.md R112: CAL_LOAD of a valid slot raises CAL_LOCKED whatever the length, and changes no slot. -/
def Obligations.CalLoadOfAValidSlotIsLocked : Prop :=
  ∀ (s : State) (slot : Fin 4), slot.val < s.cfg.nCalSlots → (s.cal[slot]).valid = true →
    exec (.calLoad slot) s = .next { s with err := .calLocked, errs := true }

/-- 41_calibration.md R113: a length other than 24 raises INCOMPLETE_CAL and leaves the slot invalid, so COMP_PT on it raises
NOT_CALIBRATED; the block read again and loaded with 24 bytes is taken. -/
def Obligations.ShortCalibrationBlockLeavesTheSlotInvalid : Prop :=
  ∀ (s : State) (slot : Fin 4), slot.val < s.cfg.nCalSlots → (s.cal[slot]).valid = false → s.ibufLen ≠ 24#6 →
    let t := { s with err := .incompleteCal, errs := true }
    exec (.calLoad slot) s = .next t ∧
      exec (.compPt slot) t = .next { t with resValid := 0#9, err := .notCalibrated } ∧
      ∀ b : Vector Byte 24, ∃ u, exec (.calLoad slot) { t with ibuf := b, ibufLen := 24#6 } = .next u ∧
        (u.cal[slot]).valid = true ∧ u.err = .ok

/-- CAL_RELEASE of any slot that exists completes: zeros and VALID 0, results untouched (41_calibration.md R115). -/
def Obligations.CalReleaseClearsTheSlot : Prop :=
  ∀ (s : State) (slot : Fin 4), slot.val < s.cfg.nCalSlots →
    ∃ c : CalSlot, exec (.calRelease slot) s = .next { s with cal := s.cal.set slot c, err := .ok } ∧
      c.valid = false ∧ ∀ k : Fin 12, c.coef[k] = 0x0000#16

/-- 41_calibration.md R116: CAL_s_k reads the coefficient zero-extended for T1 and P1 and sign-extended otherwise; the
example of R110. -/
def Obligations.CalibrationReadbackExtends : Prop :=
  (∀ (s : State) (slot : Fin 4) (k : Fin 12), slot.val < s.cfg.nCalSlots →
    let v := s.readAt (BitVec.ofNat 12 (0x100 + 0x40 * slot.val + 4 * k.val))
    if k = 0 ∨ k = 3 then v.toNat = ((s.cal[slot]).coef[k]).toNat else v.toInt = ((s.cal[slot]).coef[k]).toInt) ∧
  ∀ s : State, s.cal[0].coef[0] = 0x6B70#16 → s.cal[0].coef[2] = 0xFC18#16 → s.cal[0].coef[3] = 0x8E7D#16 →
    s.readAt 0x100#12 = 0x00006B70#32 ∧ s.readAt 0x108#12 = 0xFFFFFC18#32 ∧ s.readAt 0x10C#12 = 0x00008E7D#32

/-- 10_state.md R31: a valid slot stays as it is through every step but a CAL_RELEASE of that slot and a reset; in particular a
CAL_LOAD of it raises CAL_LOCKED and changes nothing. -/
def Obligations.ValidSlotsAreImmutable : Prop :=
  (∀ (s t : State) (slot : Fin 4), (s.cal[slot]).valid = true → step s = .next t →
    t.cal[slot] = s.cal[slot] ∨ (∃ rest, s.port = .reset :: rest) ∨
      ∃ w rest, s.port = .write 0x004#12 w :: rest ∧ decode s.cfg w = .ok (.calRelease slot)) ∧
  ∀ (s : State) (slot : Fin 4), slot.val < s.cfg.nCalSlots → (s.cal[slot]).valid = true →
    exec (.calLoad slot) s = .next { s with err := .calLocked, errs := true }

/-! ## Pressure/temperature compensation -/

/-- COMP_PT completes on a valid slot with six bytes: TEMP, PRES and TFINE are the chains of 42_comp_pressure.md R122 and R123,
written out operation by operation over the inputs of R121, and nothing but RES[0], RES[1], RES[8], RES_VALID and ERR changes. -/
def Obligations.CompPtComputesTheTwoChains : Prop :=
  ∀ (s : State) (slot : Fin 4), slot.val < s.cfg.nCalSlots → (s.cal[slot]).valid = true → s.ibufLen = 6#6 →
    let num (n : Nat) := F64.lit n
    let u (k : Fin 12) := F64.i2f ((s.cal[slot]).coef[k]).toNat
    let i (k : Fin 12) := F64.i2f ((s.cal[slot]).coef[k]).toInt
    let b (k : Fin 24) := (s.ibuf[k]).toNat
    let adcT := F64.i2f (4096 * b 0 + 16 * b 1 + b 2 / 16 : Nat)
    let adcP := F64.i2f (4096 * b 3 + 16 * b 4 + b 5 / 16 : Nat)
    let SQ (c x : F64) :=
      if s.cfg.sqGroup = .squareFirst then F64.fmul c (F64.fmul x x) else F64.fmul (F64.fmul c x) x
    let a := F64.fsub (F64.fdiv adcT (num 16384)) (F64.fdiv (u 0) (num 1024))
    let v1 := F64.fmul a (i 1)
    let d := F64.fsub (F64.fdiv adcT (num 131072)) (F64.fdiv (u 0) (num 8192))
    let v2 := F64.fmul (F64.fmul d d) (i 2)
    let tf := F64.fadd v1 v2
    let temp := F64.fdiv tf (num 5120)
    let q1 := F64.fsub (F64.fdiv tf (num 2)) (num 64000)
    let q2 := F64.fadd (F64.fdiv (F64.fmul (F64.fmul q1 q1) (i 8)) (num 32768)) (F64.fmul (F64.fmul q1 (i 7)) (num 2))
    let q2b := F64.fadd (F64.fdiv q2 (num 4)) (F64.fmul (i 6) (num 65536))
    let q1b := F64.fdiv (F64.fadd (F64.fdiv (SQ (i 5) q1) (num 524288)) (F64.fmul (i 4) q1)) (num 524288)
    let q1c := F64.fmul (F64.fadd (num 1) (F64.fdiv q1b (num 32768))) (u 3)
    let p0 := F64.fsub (num 1048576) adcP
    let p1 := F64.fdiv (F64.fmul (F64.fsub p0 (F64.fdiv q2b (num 4096))) (num 6250)) q1c
    let r1 := F64.fdiv (SQ (i 11) p1) (num 2147483648)
    let r2 := F64.fdiv (F64.fmul p1 (i 10)) (num 32768)
    let pres :=
      if F64.feq q1c (num 0) then num 0
      else F64.fdiv (F64.fadd p1 (F64.fdiv (F64.fadd (F64.fadd r1 r2) (i 9)) (num 16))) (num 100)
    ∃ r : Vector DWord 9, exec (.compPt slot) s = .next { s with res := r, resValid := 0x103#9, err := .ok } ∧
      r[0] = temp.toBits ∧ r[1] = pres.toBits ∧ r[8] = tf.toBits ∧ ∀ k : Fin 9, 2 ≤ k.val → k.val ≤ 7 → r[k] = s.res[k]

/-- COMP_PT's errors, in their order: a slot with VALID = 0 raises NOT_CALIBRATED whatever the length, then a length other than
6 raises INCOMPLETE_SAMPLE; RES_VALID is cleared, RES is not touched (42_comp_pressure.md R120). -/
def Obligations.CompPtErrorsClearResValid : Prop :=
  ∀ (s : State) (slot : Fin 4), slot.val < s.cfg.nCalSlots →
    ((s.cal[slot]).valid = false →
      exec (.compPt slot) s = .next { s with resValid := 0#9, err := .notCalibrated, errs := true }) ∧
    ((s.cal[slot]).valid = true → s.ibufLen ≠ 6#6 →
      exec (.compPt slot) s = .next { s with resValid := 0#9, err := .incompleteSample, errs := true })

/-- 42_comp_pressure.md R124: where the divisor compares equal to zero, which P1 = 0 makes it, and a zero first factor too, the
pressure is +0.0, its valid bit is 1, ERR is OK, and temperature and t_fine are still produced. -/
def Obligations.ZeroDivisorGivesPressureZero : Prop :=
  (∀ (s : State) (slot : Fin 4), slot.val < s.cfg.nCalSlots → (s.cal[slot]).valid = true → s.ibufLen = 6#6 →
    let c := s.cal[slot]
    let tf := c.tFine (s.dec20At 0)
    F64.feq (presDivisor s.cfg.sqGroup c (presQ1 tf)) (F64.lit 0) = true →
    ∃ t, exec (.compPt slot) s = .next t ∧ t.err = .ok ∧ t.resValid.getLsbD 1 = true ∧ t.res[1] = 0x0000000000000000#64 ∧
      t.res[0] = (temperature tf).toBits ∧ t.res[8] = tf.toBits) ∧
  (∀ (g : SqGroup) (c : CalSlot) (adcT : BitVec 20), c.coef[3] = 0#16 →
    F64.feq (presDivisor g c (presQ1 (c.tFine adcT))) (F64.lit 0) = true) ∧
  ∀ (g : SqGroup) (c : CalSlot) (q1 : F64),
    let q1b := F64.fdiv (F64.fadd (F64.fdiv (F64.sq g (c.num 5) q1) (F64.lit 524288)) (F64.fmul (c.num 4) q1))
      (F64.lit 524288)
    F64.feq (F64.fadd (F64.lit 1) (F64.fdiv q1b (F64.lit 32768))) (F64.lit 0) = true →
    F64.feq (presDivisor g c q1) (F64.lit 0) = true

/-- 42_comp_pressure.md R126: the bounds on the intermediates, for every slot content, every raw value and both groupings; so
every result of COMP_PT is finite. -/
def Obligations.CompPtIntermediatesAreBounded : Prop :=
  ∀ (g : SqGroup) (c : CalSlot) (adcT adcP : BitVec 20),
    let rawT := F64.i2f adcT.toNat
    let a := F64.fsub (F64.fdiv rawT (F64.lit 16384)) (F64.fdiv (c.num 0) (F64.lit 1024))
    let d := F64.fsub (F64.fdiv rawT (F64.lit 131072)) (F64.fdiv (c.num 0) (F64.lit 8192))
    let tf := c.tFine adcT
    let q1 := presQ1 tf
    let q2b := presQ2 c q1
    let q1b := F64.fdiv (F64.fadd (F64.fdiv (F64.sq g (c.num 5) q1) (F64.lit 524288)) (F64.fmul (c.num 4) q1))
      (F64.lit 524288)
    let q1c := presDivisor g c q1
    let p0 := F64.fsub (F64.lit 1048576) (F64.i2f adcP.toNat)
    let p1 := F64.fdiv (F64.fmul (F64.fsub p0 (F64.fdiv q2b (F64.lit 4096))) (F64.lit 6250)) q1c
    F64.Below a 64 ∧ F64.Below (F64.fmul a (c.num 1)) (2 ^ 21) ∧ F64.Below d 8 ∧
      F64.Below (F64.fmul (F64.fmul d d) (c.num 2)) (2 ^ 21) ∧ F64.Below tf (2 ^ 22) ∧ F64.Below q1 (2 ^ 22) ∧
      F64.Below q2b (2 ^ 44) ∧ F64.Below q1b (2 ^ 23) ∧
      (∃ neg mag, q1c = .fin neg mag ∧
        (mag ≠ 0 → 2 ^ 1021 ≤ mag ∧ F64.Below p1 (2 ^ 99) ∧ F64.Below (F64.sq g (c.num 11) p1) (2 ^ 214))) ∧
      (temperature tf).finite = true ∧ (c.pressure g adcT adcP).finite = true

/-- 42_comp_pressure.md R127, its second sentence: a and d are exact, differences of multiples of 2^-14 and 2^-17. -/
def Obligations.TemperatureDifferencesAreExact : Prop :=
  ∀ (c : CalSlot) (adcT : BitVec 20),
    let t1 := (c.coef[0]).toNat
    let a := F64.fsub (F64.fdiv (F64.i2f adcT.toNat) (F64.lit 16384)) (F64.fdiv (c.num 0) (F64.lit 1024))
    let d := F64.fsub (F64.fdiv (F64.i2f adcT.toNat) (F64.lit 131072)) (F64.fdiv (c.num 0) (F64.lit 8192))
    let diff := (adcT.toNat : Int) - 16 * t1
    a = .fin (decide (diff < 0)) (diff.natAbs * 2 ^ 1060) ∧ d = .fin (decide (diff < 0)) (diff.natAbs * 2 ^ 1057)

/-- 42_comp_pressure.md R128: from one state under the two groupings COMP_PT's next states agree in every field but `cfg` and the
pressure RES[1], which can differ by one unit in the last place. -/
def Obligations.GroupingChangesOnlyThePressure : Prop :=
  (∀ (s : State) (slot : Fin 4) (g h : SqGroup) (t u : State),
    exec (.compPt slot) { s with cfg := { s.cfg with sqGroup := g } } = .next t →
    exec (.compPt slot) { s with cfg := { s.cfg with sqGroup := h } } = .next u →
    t = { u with cfg := t.cfg, res := t.res } ∧ ∀ k : Fin 9, k ≠ 1 → t.res[k] = u.res[k]) ∧
  ∀ c : CalSlot, c.coef.toList = [27504#16, 26435#16, 0xFC18#16, 36477#16, 0xD643#16, 3024#16, 2855#16, 140#16, 0xFFF9#16,
      15500#16, 0xC6F8#16, 6000#16] →
    (c.pressure .squareFirst (dec20 0xBB#8 0x3B#8 0x90#8) (dec20 0x1D#8 0xB2#8 0x00#8)).toBits = 0x409A98E03272125C#64 ∧
    (c.pressure .leftToRight (dec20 0xBB#8 0x3B#8 0x90#8) (dec20 0x1D#8 0xB2#8 0x00#8)).toBits = 0x409A98E03272125D#64

/-! ## Humidity/temperature conversion and CRC check -/

/-- 43_comp_humidity_light.md R140: COMP_RH completes on six bytes with the two formulas over big-endian raw values, the
humidity clamped as R143 says; RES_VALID is 0x005; any other length raises INCOMPLETE_SAMPLE with RES_VALID cleared; a nonzero
bit [31:8] raises ILLEGAL_CMD; the end points are exact. -/
def Obligations.CompRhConvertsTheSample : Prop :=
  let temp (raw : Nat) := F64.fadd (F64.i2f (-45)) (F64.fdiv (F64.i2f (175 * raw : Nat)) (F64.lit 65535))
  let hum (raw : Nat) := F64.clamp01 (F64.fdiv (F64.i2f (100 * raw : Nat)) (F64.lit 65535))
  (∀ s : State, s.ibufLen = 6#6 →
    ∃ r : Vector DWord 9, exec .compRh s = .next { s with res := r, resValid := 0x005#9, err := .ok } ∧
      r[0] = (temp (256 * (s.ibuf[0]).toNat + (s.ibuf[1]).toNat)).toBits ∧
      r[2] = (hum (256 * (s.ibuf[3]).toNat + (s.ibuf[4]).toNat)).toBits ∧
      ∀ k : Fin 9, k ≠ 0 → k ≠ 2 → r[k] = s.res[k]) ∧
  (∀ s : State, s.ibufLen ≠ 6#6 →
    exec .compRh s = .next { s with resValid := 0#9, err := .incompleteSample, errs := true }) ∧
  (∀ (w : Word) (s : State), w.toNat % 256 = 0x21 → w.toNat / 256 ≠ 0 →
    execute w s = .next { s with err := .illegalCmd, errs := true }) ∧
  (temp 0).toBits = 0xC046800000000000#64 ∧ (temp 65535).toBits = 0x4060400000000000#64 ∧
    (hum 0).toBits = 0x0000000000000000#64 ∧ (hum 65535).toBits = 0x4059000000000000#64

/-- 43_comp_humidity_light.md R142: for every raw value the temperature lies in [-45, 130] and the humidity in [+0, 100], both
conversions are monotone, and the clamp never changes a value. -/
def Obligations.RhResultsStayInRange : Prop :=
  (∀ raw : Half,
    (rhTemperature raw).finite = true ∧ F64.flt (rhTemperature raw) (F64.i2f (-45)) = false ∧
      F64.flt (F64.lit 130) (rhTemperature raw) = false ∧
      (rhHumidity raw).finite = true ∧ (rhHumidity raw).signbit = false ∧
      F64.flt (F64.lit 100) (rhHumidity raw) = false ∧ rhHumidity raw = rhRatio raw) ∧
  ∀ a b : Half, a.toNat ≤ b.toNat →
    F64.flt (rhTemperature b) (rhTemperature a) = false ∧ F64.flt (rhHumidity b) (rhHumidity a) = false

/-- CRC_RH completes on six bytes with the two comparisons for the OPEN CRC8, a mismatch being no error; any other length clears
the CRC bits and raises INCOMPLETE_SAMPLE; RES and RES_VALID are untouched (43_comp_humidity_light.md R145). -/
def Obligations.CrcRhComparesTheChecksums : Prop :=
  ∀ s : State,
    (s.ibufLen = 6#6 →
      exec .crcRh s = .next { s with
        crcValid := true
        crcTOk := decide (Config.crc8 s.ibuf[0] s.ibuf[1] = s.ibuf[2])
        crcHOk := decide (Config.crc8 s.ibuf[3] s.ibuf[4] = s.ibuf[5])
        err := .ok }) ∧
    (s.ibufLen ≠ 6#6 →
      exec .crcRh s = .next { s with
        crcValid := false, crcTOk := false, crcHOk := false, err := .incompleteSample, errs := true })

/-- CRC_RH and COMP_RH give the same results in either order (43_comp_humidity_light.md R145). -/
def Obligations.CrcRhAndCompRhCommute : Prop :=
  ∀ s t u : State, exec .crcRh s = .next t → exec .compRh s = .next u →
    ∃ v, exec .compRh t = .next v ∧ exec .crcRh u = .next v

/-! ## Colour/light conversion -/

/-- COMP_LUX completes on eight bytes where the coefficients and the sum are finite: the lux estimate and the four raw counts, and
nothing but RES[3..7], RES_VALID and ERR changes (43_comp_humidity_light.md R150, R151). -/
def Obligations.CompLuxEstimatesTheLight : Prop :=
  ∀ s : State, s.ibufLen = 8#6 →
    let pair (k : Fin 12) := (s.ibuf[2 * k.val]).toNat + 256 * (s.ibuf[2 * k.val + 1]).toNat
    let kr := F64.ofBits s.luxKr
    let kc := F64.ofBits s.luxKc
    let x := F64.fadd (F64.fmul kr (F64.i2f (pair 1 : Nat))) (F64.fmul kc (F64.i2f (pair 0 : Nat)))
    kr.finite = true → kc.finite = true → x.finite = true →
    ∃ r : Vector DWord 9, exec .compLux s = .next { s with res := r, resValid := 0x0F8#9, err := .ok } ∧
      r[3] = (if x.signbit then 0#64 else x.toBits) ∧
      r[4] = (F64.i2f (pair 0 : Nat)).toBits ∧ r[5] = (F64.i2f (pair 1 : Nat)).toBits ∧
      r[6] = (F64.i2f (pair 2 : Nat)).toBits ∧ r[7] = (F64.i2f (pair 3 : Nat)).toBits ∧
      ∀ k : Fin 9, k.val < 3 ∨ k = 8 → r[k] = s.res[k]

/-- 43_comp_humidity_light.md R152: the lux clamp; -0.0 arises with coefficients other than the reset ones only, as for both
negative on a zero input. -/
def Obligations.LuxIsNeverNegative : Prop :=
  (∀ s t : State, exec .compLux s = .next t → t.err = .ok →
    let x := luxSum (F64.ofBits s.luxKr) (F64.ofBits s.luxKc) (s.le16At 0) (s.le16At 2)
    t.res[3] = (if x.signbit then 0#64 else x.toBits) ∧ t.res[3] ≠ 0x8000000000000000#64 ∧ t.res[3].msb = false) ∧
  (∀ clear red : Half,
    luxSum (F64.ofBits State.reset.luxKr) (F64.ofBits State.reset.luxKc) clear red ≠ .fin true 0) ∧
  (luxSum (F64.ofBits 0xBFF0000000000000#64) (F64.ofBits 0xBFF0000000000000#64) 0#16 0#16).toBits = 0x8000000000000000#64

/-- 43_comp_humidity_light.md R153: COMP_LUX raises BAD_COEFF exactly where a coefficient or the sum is not finite, with no
measurement left; the sum can overflow on finite coefficients; RES[3] is otherwise finite and at least +0.0. -/
def Obligations.NonFiniteLuxRaisesBadCoeff : Prop :=
  (∀ s : State, s.ibufLen = 8#6 →
    let kr := F64.ofBits s.luxKr
    let kc := F64.ofBits s.luxKc
    let x := luxSum kr kc (s.le16At 0) (s.le16At 2)
    if kr.finite = true ∧ kc.finite = true ∧ x.finite = true then
      ∃ t, exec .compLux s = .next t ∧ t.err = .ok ∧ (F64.ofBits t.res[3]).finite = true ∧ t.res[3].msb = false
    else exec .compLux s = .next { s with resValid := 0#9, err := .badCoeff, errs := true }) ∧
  (F64.ofBits 0x7FE1CCF385EBC8A0#64).finite = true ∧
    (luxSum (F64.ofBits 0#64) (F64.ofBits 0x7FE1CCF385EBC8A0#64) 65535#16 0#16).finite = false

/-- 43_comp_humidity_light.md R155: RES[4..7] hold the raw counts as exact integers. -/
def Obligations.RawCountsAreExact : Prop :=
  ∀ s t : State, exec .compLux s = .next t → t.err = .ok → ∀ j : Fin 4,
    ∃ n : Nat, n = (s.ibuf[2 * j.val]).toNat + 256 * (s.ibuf[2 * j.val + 1]).toNat ∧ n ≤ 65535 ∧
      F64.ofBits t.res[4 + j.val] = .fin false (n * 2 ^ 1074)

/-- With the reset coefficients COMP_LUX never raises BAD_COEFF: the sum is finite, below 2 · 65535 · 1.6 (43 R150). -/
def Obligations.ResetCoefficientsNeverFail : Prop :=
  ∀ s : State, s.luxKr = State.reset.luxKr → s.luxKc = State.reset.luxKc → s.ibufLen = 8#6 →
    F64.Below (luxSum (F64.ofBits s.luxKr) (F64.ofBits s.luxKc) (s.le16At 0) (s.le16At 2)) 209712 ∧
      ∃ t, exec .compLux s = .next t ∧ t.err = .ok

/-! ## Control and errors -/

/-- 44_control.md R162: NOP writes ERR and nothing else; with a nonzero bit [31:8] its word raises ILLEGAL_CMD. -/
def Obligations.NopOnlySetsOk : Prop :=
  (∀ s : State, exec .nop s = .next { s with err := .ok } ∧ execute 0x00000000#32 s = .next { s with err := .ok }) ∧
  ∀ (w : Word) (s : State), w.toNat % 256 = 0 → w.toNat ≠ 0 →
    execute w s = .next { s with err := .illegalCmd, errs := true }

/-- 60_exceptions.md R171 and R176: a word that raises leaves the state before it but for ERR, ERRS and the clearing writes of
the command it decodes to; where decoding itself raises there are none. -/
def Obligations.ErrorsArePrecise : Prop :=
  ∀ (w : Word) (s t : State), execute w s = .next t → t.err ≠ .ok →
    (∃ i, decode s.cfg w = .ok i ∧ t = { s with
        resValid := if i = .compRh ∨ i = .compLux ∨ (∃ k, i = .compPt k) then 0#9 else s.resValid
        crcValid := if i = .crcRh then false else s.crcValid
        crcTOk := if i = .crcRh then false else s.crcTOk
        crcHOk := if i = .crcRh then false else s.crcHOk
        err := t.err
        errs := true }) ∨
    (∃ e, decode s.cfg w = .error e ∧ t = { s with err := .illegalCmd, errs := true })

/-- 60_exceptions.md R172 and R175: executing a word reports exactly the first failing check of the order, ILLEGAL_CMD where the
word does not decode, and else the first of the command's own; the three examples. It sets ERRS when it reports one (R171). -/
def Obligations.ErrorsAreReportedInOrder : Prop :=
  (∀ (w : Word) (s : State), ∃ t, execute w s = .next t ∧
    t.err = (match decode s.cfg w with
      | .error _ => .illegalCmd
      | .ok i => errorOf s i) ∧
    t.errs = (s.errs || decide (t.err ≠ .ok))) ∧
  ∀ (s : State) (w : Word) (slot : Fin 4),
    (decode s.cfg w = .ok (.calLoad slot) → (s.cal[slot]).valid = true → s.ibufLen = 5#6 →
      ∃ t, execute w s = .next t ∧ t.err = .calLocked) ∧
    (decode s.cfg w = .ok (.compPt slot) → (s.cal[slot]).valid = false → s.ibufLen = 0#6 →
      ∃ t, execute w s = .next t ∧ t.err = .notCalibrated) ∧
    (decode s.cfg w = .ok .compLux → F64.ofBits s.luxKr = .nan → s.ibufLen = 7#6 →
      ∃ t, execute w s = .next t ∧ t.err = .incompleteSample)

/-- 60_exceptions.md R178: the next command overwrites ERR, whatever it was; ERRS stays 1 through every step but a host write of
1 to STATUS bit 4 and a reset. -/
def Obligations.StickyErrorStaysUntilCleared : Prop :=
  (∀ (w : Word) (s : State) (e : ErrCode), execute w { s with err := e } = execute w s) ∧
  ∀ s t : State, s.errs = true → step s = .next t →
    t.errs = true ∨ (∃ rest, s.port = .reset :: rest) ∨
      ∃ v rest, s.port = .write 0x008#12 v :: rest ∧ v.getLsbD 4 = true

/-- The codec commands and NOP write IRES, ERR and ERRS at most, IRES only on success; a success leaves ERRS (44_control.md
R165). -/
def Obligations.CodecCommandsWriteOnlyIres : Prop :=
  ∀ (i : Instr) (s t : State) (off : Fin 32),
    i = .nop ∨ i = .decBe16 off ∨ i = .decLe16 off ∨ i = .dec20 off ∨ i = .toS16 → exec i s = .next t →
    t = { s with ires := t.ires, err := t.err, errs := t.errs } ∧ (t.err ≠ .ok → t.ires = s.ires ∧ t.errs = true) ∧
      (t.err = .ok → t.errs = s.errs) ∧ (i = .nop → t.ires = s.ires)

/-- The calibration commands write the slot they name, ERR and ERRS at most, the slot only on success (44_control.md R165). -/
def Obligations.CalibrationCommandsWriteOnlyTheirSlot : Prop :=
  ∀ (i : Instr) (s t : State) (slot : Fin 4), i = .calLoad slot ∨ i = .calRelease slot → exec i s = .next t →
    t = { s with cal := t.cal, err := t.err, errs := t.errs } ∧ (∀ k : Fin 4, k ≠ slot → t.cal[k] = s.cal[k]) ∧
      (t.err ≠ .ok → t.cal = s.cal ∧ t.errs = true) ∧ (t.err = .ok → t.errs = s.errs)

/-- The compensation commands write their own results, RES_VALID, ERR and ERRS at most, results only on success (44_control.md
R165; 10_state.md R28). -/
def Obligations.CompensationCommandsWriteOnlyTheirResults : Prop :=
  ∀ (i : Instr) (s t : State) (slot : Fin 4), i = .compPt slot ∨ i = .compRh ∨ i = .compLux → exec i s = .next t →
    t = { s with res := t.res, resValid := t.resValid, err := t.err, errs := t.errs } ∧
      (∀ k : Fin 9, t.resValid.getLsbD k.val = false → t.res[k] = s.res[k]) ∧
      (t.err = .ok → t.errs = s.errs ∧ t.resValid = (match i with
        | .compPt _ => 0x103#9
        | .compRh => 0x005#9
        | _ => 0x0F8#9)) ∧
      (t.err ≠ .ok → t.res = s.res ∧ t.errs = true ∧ (i.wf s.cfg = true → t.resValid = 0#9))

/-- CRC_RH writes the three CRC bits, ERR and ERRS at most, and on an error the bits are 0 (44_control.md R165). -/
def Obligations.CrcRhWritesOnlyTheCrcBits : Prop :=
  ∀ s t : State, exec .crcRh s = .next t →
    t = { s with crcValid := t.crcValid, crcTOk := t.crcTOk, crcHOk := t.crcHOk, err := t.err, errs := t.errs } ∧
      (t.err = .ok → t.errs = s.errs ∧ t.crcValid = true) ∧
      (t.err ≠ .ok → t.errs = true ∧ t.crcValid = false ∧ t.crcTOk = false ∧ t.crcHOk = false)

/-! ## Binary64 -/

/-- Rounding once goes to the nearest binary64 magnitude, and on a tie to the one with an even significand (00_scope.md R12). What
the binary64 magnitudes are is IEEE 754's, which R12 names and does not write out (log entry 20). -/
def Obligations.RoundingIsNearestTiesToEven : Prop :=
  ∀ num den y : Nat, 0 < den → F64.spacing y ∣ y →
    let m := F64.roundMag num den
    let far (z : Nat) := ((z * den : Int) - (num : Int)).natAbs
    F64.spacing m ∣ m ∧ far m ≤ far y ∧ (far m = far y → y ≠ m → m / F64.spacing m % 2 = 0)

/-- Reading a 64-bit pattern and writing it back gives the pattern, unless it is a NaN (00_scope.md R12, log entry 20). -/
def Obligations.EncodingOfAValueIsItsPattern : Prop :=
  ∀ b : DWord, F64.ofBits b ≠ .nan → (F64.ofBits b).toBits = b

/-! ## The host's duties -/

/-- The humidity and the colour device's initialisation with the read after it keep the host's duties (`dutiesKept`), whatever the
bus answers, whenever the platform resets the block, and whichever course the host takes after a BusError: the settling waits
(70 R220), one bus transaction in flight and a triggered measurement left to complete (20 R64; 70 R224), no compensation command
without a handle and no command for a device whose initialisation has failed (70 R213; 60 R173), and after a failed read of an
input no command that reads it, until it has been fetched whole, but with the bytes received in IBUF_LEN (20 R63; 60 R173). The
sequences are those of 70 R212 and R214 as the model writes them (log entries 5, 15, 16, 18, 22 to 27). -/
def Obligations.HostSequencesKeepTheirWaits : Prop :=
  ∀ (check report : Bool) (s : State) (replies : List BusReply) (resets : List Bool) (k : Nat),
    dutiesKept s.cfg (System.run k (System.start s (initRh ++ readRh check report 0) replies resets)).log = true ∧
      dutiesKept s.cfg (System.run k (System.start s (initLux 0 1 ++ readLux report 2) replies resets)).log = true

/-- The initialisation of a pressure device, of any slot, with the reload after a reset (70_reset_and_hazards.md R202) and the read
after it keeps the same duties, and that of R202: after a reset, in the middle of the read too, no COMP_PT of a slot the host has
not loaded again; and that of 41_calibration.md R114 and 70 R211: no write of the control register and no read of a result unless
the latest CAL_LOAD of the slot has succeeded. It yields a handle only after a successful CAL_LOAD; and with no reset pulse on
the way it writes the control register only once the slot is loaded (log entries 5, 15, 16, 18, 22 to 27). -/
def Obligations.ControlWriteComesAfterCalLoad : Prop :=
  ∀ (slot : Fin 4) (report : Bool) (s : State) (replies : List BusReply) (k : Nat),
    let prog := initPt slot 0 1 ++ reloadPt slot 2 3 ++ readPt slot report 4
    (∀ resets : List Bool,
      dutiesKept s.cfg (System.run k (System.start s prog replies resets)).log = true ∧
        handlesLoaded s.cfg (System.run k (System.start s prog replies resets)).log = true) ∧
      (System.run k (System.start s prog replies [])).ControlAfterLoad slot
end

