-- ==== Sys2Proof/Laws/Float.lean ====
section
/-! SUPPORT. Rounding once (00_scope.md R12): the rounded magnitude is bracketed by every binary64 magnitude that brackets
the exact one, is itself one, and grows with the exact one. Claims about ranges rest on these. -/

namespace Sys2Proof.Machine.F64

/-- A magnitude that binary64 can hold, its exponent unbounded above. -/
def OnGrid (m : Nat) : Prop := spacing m ∣ m

theorem spacing_pos (m : Nat) : 0 < spacing m := by unfold spacing; positivity

theorem one_pos : 0 < one := by unfold one; positivity

theorem log2_mono {a b : Nat} (h : a ≤ b) : Nat.log2 a ≤ Nat.log2 b := by
  rw [Nat.log2_eq_log_two, Nat.log2_eq_log_two]
  exact Nat.log_mono_right h

theorem spacing_dvd_spacing {a b : Nat} (h : a ≤ b) : spacing a ∣ spacing b :=
  pow_dvd_pow 2 (Nat.sub_le_sub_right (log2_mono h) 52)

theorem log2_of_bounds {a k : Nat} (h1 : 2 ^ k ≤ a) (h2 : a < 2 ^ (k + 1)) : Nat.log2 a = k := by
  rw [Nat.log2_eq_log_two]
  exact Nat.log_eq_of_pow_le_of_lt_pow h1 h2

/-- A multiple of the spacing that is at most the exact magnitude is at most its floor on the grid. -/
theorem mul_spacing_le_floor {y c g num den : Nat} (hg : 0 < g) (hd : 0 < den) (hy : y = c * g)
    (h : y * den ≤ num) : y ≤ num / (den * g) * g := by
  subst hy
  refine Nat.mul_le_mul_right g ?_
  rw [Nat.le_div_iff_mul_le (by positivity)]
  calc c * (den * g) = c * g * den := by ring
    _ ≤ num := h

/-- A grid magnitude below the exact one is at most its floor on the grid. -/
theorem grid_le_floor {y num den : Nat} (hd : 0 < den) (hy : OnGrid y) (h : y * den ≤ num) :
    y ≤ num / (den * spacing (num / den)) * spacing (num / den) := by
  have hya : y ≤ num / den := (Nat.le_div_iff_mul_le hd).2 h
  by_cases hlog : Nat.log2 y - 52 = Nat.log2 (num / den) - 52
  · have hs : spacing (num / den) = spacing y := by unfold spacing; rw [hlog]
    rw [hs]
    obtain ⟨c, hc⟩ := hy
    exact mul_spacing_le_floor (spacing_pos y) hd (hc.trans (Nat.mul_comm _ _)) h
  · have hle := log2_mono hya
    have hbig : 52 < Nat.log2 (num / den) := by omega
    have hlt : Nat.log2 y < Nat.log2 (num / den) := by omega
    have hne : num / den ≠ 0 := by
      intro h0; rw [h0] at hbig; simp at hbig
    have hpow : 2 ^ Nat.log2 (num / den) = 2 ^ 52 * spacing (num / den) := by
      unfold spacing; rw [← pow_add]; congr 1; omega
    have hself : 2 ^ Nat.log2 (num / den) ≤ num / den := Nat.log2_self_le hne
    have hy2 : y < 2 ^ Nat.log2 (num / den) := by
      refine lt_of_lt_of_le Nat.lt_log2_self ?_
      exact Nat.pow_le_pow_right (by norm_num) hlt
    have := mul_spacing_le_floor (spacing_pos (num / den)) hd hpow ((Nat.le_div_iff_mul_le hd).1 hself)
    omega

/-- A grid magnitude above an exact one that is off the grid is at least its ceiling on the grid. -/
theorem ceil_le_grid {y num den : Nat} (hy : OnGrid y) (h : num ≤ y * den)
    (hr : num % (den * spacing (num / den)) ≠ 0) :
    (num / (den * spacing (num / den)) + 1) * spacing (num / den) ≤ y := by
  set g := spacing (num / den) with hg
  have hgpos : 0 < g := spacing_pos _
  have hay : num / den ≤ y := Nat.div_le_of_le_mul (by rw [Nat.mul_comm]; exact h)
  obtain ⟨c, hc⟩ := (spacing_dvd_spacing hay).trans hy
  rw [← hg] at hc
  have hdm := Nat.div_add_mod num (den * g)
  have hlt : num / (den * g) * g < y := by
    by_contra hcon
    have h1 : y * den ≤ num / (den * g) * g * den := Nat.mul_le_mul_right den (by omega)
    have h2 : num / (den * g) * g * den = den * g * (num / (den * g)) := by ring
    have : 0 < num % (den * g) := Nat.pos_of_ne_zero hr
    omega
  rw [hc] at hlt ⊢
  rw [Nat.mul_comm g c] at hlt ⊢
  have : num / (den * g) < c := lt_of_mul_lt_mul_right hlt (Nat.zero_le g)
  exact Nat.mul_le_mul_right g this

/-- Rounding in terms of a named spacing and quotient. -/
theorem roundMag_eq {num den g q : Nat} (hg : spacing (num / den) = g) (hq : num / (den * g) = q) :
    roundMag num den =
      (if den * g < 2 * (num % (den * g)) ∨ (2 * (num % (den * g)) = den * g ∧ q % 2 = 1) then q + 1 else q) * g := by
  subst hg; subst hq; rfl

/-- Rounding goes to the floor or to the ceiling on the grid; to the ceiling only off the grid. -/
theorem roundMag_cases (num den : Nat) (hd : 0 < den) :
    (roundMag num den = num / (den * spacing (num / den)) * spacing (num / den)) ∨
      (num % (den * spacing (num / den)) ≠ 0 ∧
        roundMag num den = (num / (den * spacing (num / den)) + 1) * spacing (num / den)) := by
  have hpos : 0 < den * spacing (num / den) := Nat.mul_pos hd (spacing_pos _)
  rw [roundMag_eq rfl rfl]
  split_ifs with hup
  · exact .inr ⟨by omega, rfl⟩
  · exact .inl rfl

/-- Rounding never goes below a grid magnitude that the exact one reaches. -/
theorem le_roundMag {y num den : Nat} (hd : 0 < den) (hy : OnGrid y) (h : y * den ≤ num) :
    y ≤ roundMag num den := by
  have hf := grid_le_floor hd hy h
  rcases roundMag_cases num den hd with hr | ⟨-, hr⟩
  · rw [hr]; exact hf
  · rw [hr, Nat.succ_mul]; omega

/-- Rounding never goes above a grid magnitude that the exact one does not pass. -/
theorem roundMag_le {y num den : Nat} (hd : 0 < den) (hy : OnGrid y) (h : num ≤ y * den) :
    roundMag num den ≤ y := by
  rcases roundMag_cases num den hd with hr | ⟨hne, hr⟩
  · rw [hr]
    have h1 : num / (den * spacing (num / den)) * spacing (num / den) * den ≤ y * den := by
      have := Nat.div_mul_le_self num (den * spacing (num / den))
      have h2 : num / (den * spacing (num / den)) * spacing (num / den) * den =
          num / (den * spacing (num / den)) * (den * spacing (num / den)) := by ring
      omega
    exact Nat.le_of_mul_le_mul_right h1 hd
  · rw [hr]; exact ceil_le_grid hy h hne

/-- A grid magnitude is rounded to itself. -/
theorem roundMag_of_onGrid {y den : Nat} (hd : 0 < den) (hy : OnGrid y) : roundMag (y * den) den = y :=
  Nat.le_antisymm (roundMag_le hd hy le_rfl) (le_roundMag hd hy le_rfl)

/-- Multiples of a power of two below 2^53 times it are on the grid. -/
theorem onGrid_mul_pow {c k : Nat} (hc : c < 2 ^ 53) : OnGrid (c * 2 ^ k) := by
  unfold OnGrid spacing
  rcases Nat.eq_zero_or_pos c with rfl | hpos
  · simp
  · refine Dvd.dvd.mul_left (pow_dvd_pow 2 ?_) c
    have h : Nat.log2 (c * 2 ^ k) < 53 + k := by
      rw [Nat.log2_lt (by positivity), pow_add]
      exact Nat.mul_lt_mul_of_pos_right hc (by positivity)
    omega

/-- A power of two is on the grid. -/
theorem onGrid_pow (k : Nat) : OnGrid (2 ^ k) := by
  have := onGrid_mul_pow (c := 1) (k := k) (by norm_num)
  rwa [one_mul] at this

/-- The integers the block converts are on the grid (R12, D15). -/
theorem onGrid_int {n : Nat} (h : n < 2 ^ 53) : OnGrid (n * one) := by
  unfold one; exact onGrid_mul_pow h

/-- A rounded magnitude is on the grid. -/
theorem onGrid_roundMag (num den : Nat) (hd : 0 < den) : OnGrid (roundMag num den) := by
  set g := spacing (num / den) with hg
  have hgpos : 0 < g := spacing_pos _
  have hq : num / (den * g) < 2 ^ 53 := by
    rw [← Nat.div_div_eq_div_mul, Nat.div_lt_iff_lt_mul hgpos, hg]
    unfold spacing
    rw [← pow_add]
    exact lt_of_lt_of_le Nat.lt_log2_self (Nat.pow_le_pow_right (by norm_num) (by omega))
  rcases roundMag_cases num den hd with hr | ⟨-, hr⟩
  · rw [hr]; exact onGrid_mul_pow hq
  · rw [hr]
    rcases Nat.lt_or_ge (num / (den * g) + 1) (2 ^ 53) with hlt | hge
    · exact onGrid_mul_pow hlt
    · have : num / (den * g) + 1 = 2 ^ 53 := by omega
      rw [← hg, this, hg]
      unfold spacing
      rw [← pow_add]
      exact onGrid_pow _

/-- Rounding is monotone in the exact magnitude. -/
theorem roundMag_mono {n1 d1 n2 d2 : Nat} (h1 : 0 < d1) (h2 : 0 < d2) (h : n1 * d2 ≤ n2 * d1) :
    roundMag n1 d1 ≤ roundMag n2 d2 := by
  rcases Nat.lt_or_ge n2 (roundMag n1 d1 * d2) with hlt | hge
  · -- the second exact magnitude lies below the first's rounding, so it shares its cell and rounds up as well
    have hgrid := onGrid_roundMag n1 d1 h1
    set g := spacing (n1 / d1) with hg
    have hgpos : 0 < g := spacing_pos _
    have hfl : n1 / d1 ≤ n2 / d2 := by
      rw [Nat.le_div_iff_mul_le h2]
      have := Nat.div_mul_le_self n1 d1
      have h3 : n1 / d1 * d2 * d1 ≤ n2 * d1 := by
        calc n1 / d1 * d2 * d1 = n1 / d1 * d1 * d2 := by ring
          _ ≤ n1 * d2 := Nat.mul_le_mul_right d2 this
          _ ≤ n2 * d1 := h
      exact Nat.le_of_mul_le_mul_right h3 h1
    rcases roundMag_cases n1 d1 h1 with hr | ⟨hne, hr⟩
    · exfalso
      rw [hr, ← hg] at hlt
      have := Nat.div_mul_le_self n1 (d1 * g)
      have h3 : n1 / (d1 * g) * g * d2 * d1 ≤ n1 * d2 := by
        calc n1 / (d1 * g) * g * d2 * d1 = n1 / (d1 * g) * (d1 * g) * d2 := by ring
          _ ≤ n1 * d2 := Nat.mul_le_mul_right d2 this
      have h4 : n2 * d1 < n1 / (d1 * g) * g * d2 * d1 := Nat.mul_lt_mul_of_pos_right hlt h1
      omega
    · rw [← hg] at hr hne
      set q := n1 / (d1 * g) with hq
      have hn2 : n2 < (q + 1) * g * d2 := by rw [← hr]; exact hlt
      have hb : n2 / d2 < (q + 1) * g := (Nat.div_lt_iff_lt_mul h2).2 hn2
      have hg2 : spacing (n2 / d2) = g := by
        refine Nat.dvd_antisymm ?_ (spacing_dvd_spacing hfl)
        rw [hg]
        unfold spacing
        refine pow_dvd_pow 2 ?_
        by_contra hcon
        have hlog : Nat.log2 (n1 / d1) < Nat.log2 (n2 / d2) ∧ 52 < Nat.log2 (n2 / d2) := by omega
        have hne2 : n2 / d2 ≠ 0 := by intro h0; rw [h0] at hlog; simp at hlog
        have hbig : 2 ^ Nat.log2 (n2 / d2) ≤ n2 / d2 := Nat.log2_self_le hne2
        -- the power of two between them is a grid point above the first and below the cell's end
        have hgp : g ∣ 2 ^ Nat.log2 (n2 / d2) := by
          rw [hg]; unfold spacing; exact pow_dvd_pow 2 (by omega)
        have hup : n1 / d1 < 2 ^ Nat.log2 (n2 / d2) :=
          lt_of_lt_of_le Nat.lt_log2_self (Nat.pow_le_pow_right (by norm_num) hlog.1)
        have hcl := ceil_le_grid (y := 2 ^ Nat.log2 (n2 / d2)) (onGrid_pow _)
          ((Nat.div_lt_iff_lt_mul h1).1 hup).le (by rw [← hg]; exact hne)
        rw [← hg, ← hq] at hcl
        omega
      have hq2 : n2 / (d2 * g) = q := by
        refine Nat.le_antisymm ?_ ?_
        · have : n2 / (d2 * g) < q + 1 := by
            rw [Nat.div_lt_iff_lt_mul (by positivity)]
            calc n2 < (q + 1) * g * d2 := hn2
              _ = (q + 1) * (d2 * g) := by ring
          omega
        · rw [Nat.le_div_iff_mul_le (by positivity)]
          have := Nat.div_mul_le_self n1 (d1 * g)
          have h3 : q * (d2 * g) * d1 ≤ n2 * d1 := by
            calc q * (d2 * g) * d1 = q * (d1 * g) * d2 := by ring
              _ ≤ n1 * d2 := Nat.mul_le_mul_right d2 this
              _ ≤ n2 * d1 := h
          exact Nat.le_of_mul_le_mul_right h3 h1
      have hm1 := Nat.div_add_mod n1 (d1 * g)
      have hm2 := Nat.div_add_mod n2 (d2 * g)
      rw [← hq] at hm1
      rw [hq2] at hm2
      -- the remainders compare as the exact magnitudes do
      have hrem : n1 % (d1 * g) * d2 ≤ n2 % (d2 * g) * d1 := by
        have e1 : n1 * d2 = d1 * g * q * d2 + n1 % (d1 * g) * d2 := by rw [← Nat.add_mul, hm1]
        have e2 : n2 * d1 = d2 * g * q * d1 + n2 % (d2 * g) * d1 := by rw [← Nat.add_mul, hm2]
        have e3 : d1 * g * q * d2 = d2 * g * q * d1 := by ring
        omega
      -- the first rounds up, so the second does
      have hup1 : d1 * g < 2 * (n1 % (d1 * g)) ∨ (2 * (n1 % (d1 * g)) = d1 * g ∧ q % 2 = 1) := by
        by_contra hcon
        rw [roundMag_eq hg.symm hq.symm, if_neg hcon] at hr
        have := Nat.eq_of_mul_eq_mul_right hgpos hr
        omega
      have hup2 : d2 * g < 2 * (n2 % (d2 * g)) ∨ (2 * (n2 % (d2 * g)) = d2 * g ∧ q % 2 = 1) := by
        have key : d1 * g * d2 ≤ 2 * (n1 % (d1 * g)) * d2 := by
          apply Nat.mul_le_mul_right; omega
        have : d2 * g * d1 ≤ 2 * (n2 % (d2 * g)) * d1 := by
          calc d2 * g * d1 = d1 * g * d2 := by ring
            _ ≤ 2 * (n1 % (d1 * g)) * d2 := key
            _ = 2 * (n1 % (d1 * g) * d2) := by ring
            _ ≤ 2 * (n2 % (d2 * g) * d1) := by omega
            _ = 2 * (n2 % (d2 * g)) * d1 := by ring
        have hle := Nat.le_of_mul_le_mul_right this h1
        rcases hup1 with hs | ⟨he, ho⟩
        · left
          have : d2 * g * d1 < 2 * (n2 % (d2 * g)) * d1 := by
            calc d2 * g * d1 = d1 * g * d2 := by ring
              _ < 2 * (n1 % (d1 * g)) * d2 := Nat.mul_lt_mul_of_pos_right hs h2
              _ = 2 * (n1 % (d1 * g) * d2) := by ring
              _ ≤ 2 * (n2 % (d2 * g) * d1) := by omega
              _ = 2 * (n2 % (d2 * g)) * d1 := by ring
          exact Nat.lt_of_mul_lt_mul_right this
        · rcases Nat.eq_or_lt_of_le hle with heq | hlt2
          · exact .inr ⟨heq.symm, ho⟩
          · exact .inl hlt2
      rw [hr, roundMag_eq hg2 hq2, if_pos hup2]
  · exact le_roundMag h2 (onGrid_roundMag n1 d1 h1) hge

end Sys2Proof.Machine.F64
end

