-- ==== Sys2Proof/Laws/Bounds.lean ====
section
/-! SUPPORT. How far the magnitude of a binary64 result can reach, from those of its operands (42_comp_pressure.md R126,
43_comp_humidity_light.md R142 and R150 rest on such bounds). -/

namespace Sys2Proof.Machine.F64

/-- Finite, of magnitude at most `b` units. -/
def AtMost (x : F64) (b : Nat) : Prop := ∃ s m, x = .fin s m ∧ m ≤ b

theorem AtMost.finite {x : F64} {b : Nat} (h : AtMost x b) : x.finite = true := by
  obtain ⟨s, m, rfl, -⟩ := h; rfl

theorem AtMost.mono {x : F64} {a b : Nat} (h : AtMost x a) (hab : a ≤ b) : AtMost x b := by
  obtain ⟨s, m, rfl, hm⟩ := h; exact ⟨s, m, rfl, hm.trans hab⟩

theorem atMost_lit (n : Nat) : AtMost (lit n) (n * one) := ⟨_, _, rfl, le_rfl⟩

theorem atMost_i2f {n : Int} {b : Nat} (h : n.natAbs ≤ b) : AtMost (i2f n) (b * one) :=
  ⟨_, _, rfl, Nat.mul_le_mul_right _ h⟩

theorem AtMost.neg {x : F64} {b : Nat} (h : AtMost x b) : AtMost x.neg b := by
  obtain ⟨s, m, rfl, hm⟩ := h; exact ⟨!s, m, rfl, hm⟩

/-- A rounded result keeps a bound that is a binary64 magnitude. -/
theorem atMost_round {s : Bool} {num den b : Nat} (hd : 0 < den) (hb : OnGrid b) (hl : b < limit)
    (h : num ≤ b * den) : AtMost (round s num den) b := by
  have hr := roundMag_le hd hb h
  refine ⟨s, roundMag num den, ?_, hr⟩
  unfold round
  exact if_pos (lt_of_le_of_lt hr hl)

theorem atMost_fadd {x y : F64} {a b c : Nat} (hx : AtMost x a) (hy : AtMost y b) (hc : OnGrid c) (hl : c < limit)
    (h : a + b ≤ c) : AtMost (fadd x y) c := by
  obtain ⟨s, m, rfl, hm⟩ := hx
  obtain ⟨t, n, rfl, hn⟩ := hy
  simp only [fadd]
  split_ifs
  · exact atMost_round Nat.one_pos hc hl (by omega)
  · exact ⟨_, _, rfl, Nat.zero_le _⟩
  · exact atMost_round Nat.one_pos hc hl (by omega)
  · exact atMost_round Nat.one_pos hc hl (by omega)

theorem atMost_fsub {x y : F64} {a b c : Nat} (hx : AtMost x a) (hy : AtMost y b) (hc : OnGrid c) (hl : c < limit)
    (h : a + b ≤ c) : AtMost (fsub x y) c := atMost_fadd hx hy.neg hc hl h

theorem atMost_fmul {x y : F64} {a b c : Nat} (hx : AtMost x a) (hy : AtMost y b) (hc : OnGrid c) (hl : c < limit)
    (h : a * b ≤ c * one) : AtMost (fmul x y) c := by
  obtain ⟨s, m, rfl, hm⟩ := hx
  obtain ⟨t, n, rfl, hn⟩ := hy
  simp only [fmul]
  exact atMost_round one_pos hc hl ((Nat.mul_le_mul hm hn).trans h)

/-- Division by a finite value of magnitude at least `b`, not zero. -/
theorem atMost_fdiv {x : F64} {t : Bool} {n a b c : Nat} (hx : AtMost x a) (hb : b ≤ n) (hpos : 0 < b)
    (hc : OnGrid c) (hl : c < limit) (h : a * one ≤ c * b) : AtMost (fdiv x (.fin t n)) c := by
  obtain ⟨s, m, rfl, hm⟩ := hx
  have hn : n ≠ 0 := by omega
  simp only [fdiv, hn, if_false]
  refine atMost_round (by omega) hc hl ?_
  calc m * one ≤ a * one := Nat.mul_le_mul_right _ hm
    _ ≤ c * b := h
    _ ≤ c * n := Nat.mul_le_mul_left _ hb

/-- A grid magnitude times a power of two, over the same power, is exact: the block's shifts (42_comp_pressure.md R127). -/
theorem round_exact {s : Bool} {m den : Nat} (hd : 0 < den) (hm : OnGrid m) (hl : m < limit) :
    round s (m * den) den = .fin s m := by
  unfold round
  rw [roundMag_of_onGrid hd hm]
  exact if_pos hl

end Sys2Proof.Machine.F64
end

