-- ==== Sys2Proof/Laws/Decode.lean ====
section
/-! SUPPORT. What decoding can answer, and that the rows of spec/opcode_table.json do not overlap (30_encoding.md R75). -/

namespace Sys2Proof

/-- Decoding accepts exactly a parsed command with legal fields. -/
theorem decode_eq_ok {cfg : Params} {w : Word} {i : Instr} :
    decode cfg w = .ok i ↔ parse w = .ok i ∧ i.wf cfg = true := by
  unfold decode
  cases parse w with
  | error e => simp
  | ok j =>
    simp only [Except.ok.injEq]
    split_ifs with h
    · simp only [Except.ok.injEq]
      constructor
      · rintro rfl; exact ⟨rfl, h⟩
      · exact fun h => h.1
    · simp only [false_iff, not_and]
      rintro rfl; exact h

/-- A decoded command has legal fields. -/
theorem wf_of_decode {cfg : Params} {w : Word} {i : Instr} (h : decode cfg w = .ok i) : i.wf cfg = true :=
  (decode_eq_ok.1 h).2

theorem whenZero_eq_ok {z : Bool} {i j : Instr} : whenZero z i = .ok j ↔ z = true ∧ i = j := by
  unfold whenZero
  cases z <;> simp

/-- Two rows that some word is in are one row. -/
theorem opcodeTable_disjoint :
    opcodeTable.Pairwise fun r q => r.pattern &&& (r.mask &&& q.mask) ≠ q.pattern &&& (r.mask &&& q.mask) := by
  decide

end Sys2Proof
end

