-- ==== Sys2Proof/Laws/State.lean ====
section
/-! SUPPORT. What each update of Machine/Ops.lean does to each field of State: one lemma a field, true by rfl. -/

namespace Sys2Proof.Machine.State

variable (s : State)

/-! `setOk` -/

@[simp] theorem setOk_cfg : (s.setOk).cfg = s.cfg := rfl
@[simp] theorem setOk_err : (s.setOk).err = .ok := rfl
@[simp] theorem setOk_errs : (s.setOk).errs = s.errs := rfl
@[simp] theorem setOk_crcValid : (s.setOk).crcValid = s.crcValid := rfl
@[simp] theorem setOk_crcTOk : (s.setOk).crcTOk = s.crcTOk := rfl
@[simp] theorem setOk_crcHOk : (s.setOk).crcHOk = s.crcHOk := rfl
@[simp] theorem setOk_ibuf : (s.setOk).ibuf = s.ibuf := rfl
@[simp] theorem setOk_ibufLen : (s.setOk).ibufLen = s.ibufLen := rfl
@[simp] theorem setOk_ires : (s.setOk).ires = s.ires := rfl
@[simp] theorem setOk_res : (s.setOk).res = s.res := rfl
@[simp] theorem setOk_resValid : (s.setOk).resValid = s.resValid := rfl
@[simp] theorem setOk_luxKr : (s.setOk).luxKr = s.luxKr := rfl
@[simp] theorem setOk_luxKc : (s.setOk).luxKc = s.luxKc := rfl
@[simp] theorem setOk_cal : (s.setOk).cal = s.cal := rfl
@[simp] theorem setOk_port : (s.setOk).port = s.port := rfl
@[simp] theorem setOk_observed : (s.setOk).observed = s.observed := rfl

/-! `setErr` -/

@[simp] theorem setErr_cfg (e : ErrCode) : (s.setErr e).cfg = s.cfg := rfl
@[simp] theorem setErr_err (e : ErrCode) : (s.setErr e).err = e := rfl
@[simp] theorem setErr_errs (e : ErrCode) : (s.setErr e).errs = true := rfl
@[simp] theorem setErr_crcValid (e : ErrCode) : (s.setErr e).crcValid = s.crcValid := rfl
@[simp] theorem setErr_crcTOk (e : ErrCode) : (s.setErr e).crcTOk = s.crcTOk := rfl
@[simp] theorem setErr_crcHOk (e : ErrCode) : (s.setErr e).crcHOk = s.crcHOk := rfl
@[simp] theorem setErr_ibuf (e : ErrCode) : (s.setErr e).ibuf = s.ibuf := rfl
@[simp] theorem setErr_ibufLen (e : ErrCode) : (s.setErr e).ibufLen = s.ibufLen := rfl
@[simp] theorem setErr_ires (e : ErrCode) : (s.setErr e).ires = s.ires := rfl
@[simp] theorem setErr_res (e : ErrCode) : (s.setErr e).res = s.res := rfl
@[simp] theorem setErr_resValid (e : ErrCode) : (s.setErr e).resValid = s.resValid := rfl
@[simp] theorem setErr_luxKr (e : ErrCode) : (s.setErr e).luxKr = s.luxKr := rfl
@[simp] theorem setErr_luxKc (e : ErrCode) : (s.setErr e).luxKc = s.luxKc := rfl
@[simp] theorem setErr_cal (e : ErrCode) : (s.setErr e).cal = s.cal := rfl
@[simp] theorem setErr_port (e : ErrCode) : (s.setErr e).port = s.port := rfl
@[simp] theorem setErr_observed (e : ErrCode) : (s.setErr e).observed = s.observed := rfl

/-! `clearErrs` -/

@[simp] theorem clearErrs_cfg : (s.clearErrs).cfg = s.cfg := rfl
@[simp] theorem clearErrs_err : (s.clearErrs).err = s.err := rfl
@[simp] theorem clearErrs_errs : (s.clearErrs).errs = false := rfl
@[simp] theorem clearErrs_crcValid : (s.clearErrs).crcValid = s.crcValid := rfl
@[simp] theorem clearErrs_crcTOk : (s.clearErrs).crcTOk = s.crcTOk := rfl
@[simp] theorem clearErrs_crcHOk : (s.clearErrs).crcHOk = s.crcHOk := rfl
@[simp] theorem clearErrs_ibuf : (s.clearErrs).ibuf = s.ibuf := rfl
@[simp] theorem clearErrs_ibufLen : (s.clearErrs).ibufLen = s.ibufLen := rfl
@[simp] theorem clearErrs_ires : (s.clearErrs).ires = s.ires := rfl
@[simp] theorem clearErrs_res : (s.clearErrs).res = s.res := rfl
@[simp] theorem clearErrs_resValid : (s.clearErrs).resValid = s.resValid := rfl
@[simp] theorem clearErrs_luxKr : (s.clearErrs).luxKr = s.luxKr := rfl
@[simp] theorem clearErrs_luxKc : (s.clearErrs).luxKc = s.luxKc := rfl
@[simp] theorem clearErrs_cal : (s.clearErrs).cal = s.cal := rfl
@[simp] theorem clearErrs_port : (s.clearErrs).port = s.port := rfl
@[simp] theorem clearErrs_observed : (s.clearErrs).observed = s.observed := rfl

/-! `setIres` -/

@[simp] theorem setIres_cfg (v : Word) : (s.setIres v).cfg = s.cfg := rfl
@[simp] theorem setIres_err (v : Word) : (s.setIres v).err = s.err := rfl
@[simp] theorem setIres_errs (v : Word) : (s.setIres v).errs = s.errs := rfl
@[simp] theorem setIres_crcValid (v : Word) : (s.setIres v).crcValid = s.crcValid := rfl
@[simp] theorem setIres_crcTOk (v : Word) : (s.setIres v).crcTOk = s.crcTOk := rfl
@[simp] theorem setIres_crcHOk (v : Word) : (s.setIres v).crcHOk = s.crcHOk := rfl
@[simp] theorem setIres_ibuf (v : Word) : (s.setIres v).ibuf = s.ibuf := rfl
@[simp] theorem setIres_ibufLen (v : Word) : (s.setIres v).ibufLen = s.ibufLen := rfl
@[simp] theorem setIres_ires (v : Word) : (s.setIres v).ires = v := rfl
@[simp] theorem setIres_res (v : Word) : (s.setIres v).res = s.res := rfl
@[simp] theorem setIres_resValid (v : Word) : (s.setIres v).resValid = s.resValid := rfl
@[simp] theorem setIres_luxKr (v : Word) : (s.setIres v).luxKr = s.luxKr := rfl
@[simp] theorem setIres_luxKc (v : Word) : (s.setIres v).luxKc = s.luxKc := rfl
@[simp] theorem setIres_cal (v : Word) : (s.setIres v).cal = s.cal := rfl
@[simp] theorem setIres_port (v : Word) : (s.setIres v).port = s.port := rfl
@[simp] theorem setIres_observed (v : Word) : (s.setIres v).observed = s.observed := rfl

/-! `setResValid` -/

@[simp] theorem setResValid_cfg (v : BitVec 9) : (s.setResValid v).cfg = s.cfg := rfl
@[simp] theorem setResValid_err (v : BitVec 9) : (s.setResValid v).err = s.err := rfl
@[simp] theorem setResValid_errs (v : BitVec 9) : (s.setResValid v).errs = s.errs := rfl
@[simp] theorem setResValid_crcValid (v : BitVec 9) : (s.setResValid v).crcValid = s.crcValid := rfl
@[simp] theorem setResValid_crcTOk (v : BitVec 9) : (s.setResValid v).crcTOk = s.crcTOk := rfl
@[simp] theorem setResValid_crcHOk (v : BitVec 9) : (s.setResValid v).crcHOk = s.crcHOk := rfl
@[simp] theorem setResValid_ibuf (v : BitVec 9) : (s.setResValid v).ibuf = s.ibuf := rfl
@[simp] theorem setResValid_ibufLen (v : BitVec 9) : (s.setResValid v).ibufLen = s.ibufLen := rfl
@[simp] theorem setResValid_ires (v : BitVec 9) : (s.setResValid v).ires = s.ires := rfl
@[simp] theorem setResValid_res (v : BitVec 9) : (s.setResValid v).res = s.res := rfl
@[simp] theorem setResValid_resValid (v : BitVec 9) : (s.setResValid v).resValid = v := rfl
@[simp] theorem setResValid_luxKr (v : BitVec 9) : (s.setResValid v).luxKr = s.luxKr := rfl
@[simp] theorem setResValid_luxKc (v : BitVec 9) : (s.setResValid v).luxKc = s.luxKc := rfl
@[simp] theorem setResValid_cal (v : BitVec 9) : (s.setResValid v).cal = s.cal := rfl
@[simp] theorem setResValid_port (v : BitVec 9) : (s.setResValid v).port = s.port := rfl
@[simp] theorem setResValid_observed (v : BitVec 9) : (s.setResValid v).observed = s.observed := rfl

/-! `setCrc` -/

@[simp] theorem setCrc_cfg (a b c : Bool) : (s.setCrc a b c).cfg = s.cfg := rfl
@[simp] theorem setCrc_err (a b c : Bool) : (s.setCrc a b c).err = s.err := rfl
@[simp] theorem setCrc_errs (a b c : Bool) : (s.setCrc a b c).errs = s.errs := rfl
@[simp] theorem setCrc_crcValid (a b c : Bool) : (s.setCrc a b c).crcValid = a := rfl
@[simp] theorem setCrc_crcTOk (a b c : Bool) : (s.setCrc a b c).crcTOk = b := rfl
@[simp] theorem setCrc_crcHOk (a b c : Bool) : (s.setCrc a b c).crcHOk = c := rfl
@[simp] theorem setCrc_ibuf (a b c : Bool) : (s.setCrc a b c).ibuf = s.ibuf := rfl
@[simp] theorem setCrc_ibufLen (a b c : Bool) : (s.setCrc a b c).ibufLen = s.ibufLen := rfl
@[simp] theorem setCrc_ires (a b c : Bool) : (s.setCrc a b c).ires = s.ires := rfl
@[simp] theorem setCrc_res (a b c : Bool) : (s.setCrc a b c).res = s.res := rfl
@[simp] theorem setCrc_resValid (a b c : Bool) : (s.setCrc a b c).resValid = s.resValid := rfl
@[simp] theorem setCrc_luxKr (a b c : Bool) : (s.setCrc a b c).luxKr = s.luxKr := rfl
@[simp] theorem setCrc_luxKc (a b c : Bool) : (s.setCrc a b c).luxKc = s.luxKc := rfl
@[simp] theorem setCrc_cal (a b c : Bool) : (s.setCrc a b c).cal = s.cal := rfl
@[simp] theorem setCrc_port (a b c : Bool) : (s.setCrc a b c).port = s.port := rfl
@[simp] theorem setCrc_observed (a b c : Bool) : (s.setCrc a b c).observed = s.observed := rfl

/-! `setCal` -/

@[simp] theorem setCal_cfg (k : Fin 4) (c : CalSlot) : (s.setCal k c).cfg = s.cfg := rfl
@[simp] theorem setCal_err (k : Fin 4) (c : CalSlot) : (s.setCal k c).err = s.err := rfl
@[simp] theorem setCal_errs (k : Fin 4) (c : CalSlot) : (s.setCal k c).errs = s.errs := rfl
@[simp] theorem setCal_crcValid (k : Fin 4) (c : CalSlot) : (s.setCal k c).crcValid = s.crcValid := rfl
@[simp] theorem setCal_crcTOk (k : Fin 4) (c : CalSlot) : (s.setCal k c).crcTOk = s.crcTOk := rfl
@[simp] theorem setCal_crcHOk (k : Fin 4) (c : CalSlot) : (s.setCal k c).crcHOk = s.crcHOk := rfl
@[simp] theorem setCal_ibuf (k : Fin 4) (c : CalSlot) : (s.setCal k c).ibuf = s.ibuf := rfl
@[simp] theorem setCal_ibufLen (k : Fin 4) (c : CalSlot) : (s.setCal k c).ibufLen = s.ibufLen := rfl
@[simp] theorem setCal_ires (k : Fin 4) (c : CalSlot) : (s.setCal k c).ires = s.ires := rfl
@[simp] theorem setCal_res (k : Fin 4) (c : CalSlot) : (s.setCal k c).res = s.res := rfl
@[simp] theorem setCal_resValid (k : Fin 4) (c : CalSlot) : (s.setCal k c).resValid = s.resValid := rfl
@[simp] theorem setCal_luxKr (k : Fin 4) (c : CalSlot) : (s.setCal k c).luxKr = s.luxKr := rfl
@[simp] theorem setCal_luxKc (k : Fin 4) (c : CalSlot) : (s.setCal k c).luxKc = s.luxKc := rfl
@[simp] theorem setCal_cal (k : Fin 4) (c : CalSlot) : (s.setCal k c).cal = s.cal.set k c := rfl
@[simp] theorem setCal_port (k : Fin 4) (c : CalSlot) : (s.setCal k c).port = s.port := rfl
@[simp] theorem setCal_observed (k : Fin 4) (c : CalSlot) : (s.setCal k c).observed = s.observed := rfl

/-! `setIbufLen` -/

@[simp] theorem setIbufLen_cfg (v : BitVec 6) : (s.setIbufLen v).cfg = s.cfg := rfl
@[simp] theorem setIbufLen_err (v : BitVec 6) : (s.setIbufLen v).err = s.err := rfl
@[simp] theorem setIbufLen_errs (v : BitVec 6) : (s.setIbufLen v).errs = s.errs := rfl
@[simp] theorem setIbufLen_crcValid (v : BitVec 6) : (s.setIbufLen v).crcValid = s.crcValid := rfl
@[simp] theorem setIbufLen_crcTOk (v : BitVec 6) : (s.setIbufLen v).crcTOk = s.crcTOk := rfl
@[simp] theorem setIbufLen_crcHOk (v : BitVec 6) : (s.setIbufLen v).crcHOk = s.crcHOk := rfl
@[simp] theorem setIbufLen_ibuf (v : BitVec 6) : (s.setIbufLen v).ibuf = s.ibuf := rfl
@[simp] theorem setIbufLen_ibufLen (v : BitVec 6) : (s.setIbufLen v).ibufLen = v := rfl
@[simp] theorem setIbufLen_ires (v : BitVec 6) : (s.setIbufLen v).ires = s.ires := rfl
@[simp] theorem setIbufLen_res (v : BitVec 6) : (s.setIbufLen v).res = s.res := rfl
@[simp] theorem setIbufLen_resValid (v : BitVec 6) : (s.setIbufLen v).resValid = s.resValid := rfl
@[simp] theorem setIbufLen_luxKr (v : BitVec 6) : (s.setIbufLen v).luxKr = s.luxKr := rfl
@[simp] theorem setIbufLen_luxKc (v : BitVec 6) : (s.setIbufLen v).luxKc = s.luxKc := rfl
@[simp] theorem setIbufLen_cal (v : BitVec 6) : (s.setIbufLen v).cal = s.cal := rfl
@[simp] theorem setIbufLen_port (v : BitVec 6) : (s.setIbufLen v).port = s.port := rfl
@[simp] theorem setIbufLen_observed (v : BitVec 6) : (s.setIbufLen v).observed = s.observed := rfl

/-! `setByte` -/

@[simp] theorem setByte_cfg (i : Fin 24) (b : Byte) : (s.setByte i b).cfg = s.cfg := rfl
@[simp] theorem setByte_err (i : Fin 24) (b : Byte) : (s.setByte i b).err = s.err := rfl
@[simp] theorem setByte_errs (i : Fin 24) (b : Byte) : (s.setByte i b).errs = s.errs := rfl
@[simp] theorem setByte_crcValid (i : Fin 24) (b : Byte) : (s.setByte i b).crcValid = s.crcValid := rfl
@[simp] theorem setByte_crcTOk (i : Fin 24) (b : Byte) : (s.setByte i b).crcTOk = s.crcTOk := rfl
@[simp] theorem setByte_crcHOk (i : Fin 24) (b : Byte) : (s.setByte i b).crcHOk = s.crcHOk := rfl
@[simp] theorem setByte_ibuf (i : Fin 24) (b : Byte) : (s.setByte i b).ibuf = s.ibuf.set i b := rfl
@[simp] theorem setByte_ibufLen (i : Fin 24) (b : Byte) : (s.setByte i b).ibufLen = s.ibufLen := rfl
@[simp] theorem setByte_ires (i : Fin 24) (b : Byte) : (s.setByte i b).ires = s.ires := rfl
@[simp] theorem setByte_res (i : Fin 24) (b : Byte) : (s.setByte i b).res = s.res := rfl
@[simp] theorem setByte_resValid (i : Fin 24) (b : Byte) : (s.setByte i b).resValid = s.resValid := rfl
@[simp] theorem setByte_luxKr (i : Fin 24) (b : Byte) : (s.setByte i b).luxKr = s.luxKr := rfl
@[simp] theorem setByte_luxKc (i : Fin 24) (b : Byte) : (s.setByte i b).luxKc = s.luxKc := rfl
@[simp] theorem setByte_cal (i : Fin 24) (b : Byte) : (s.setByte i b).cal = s.cal := rfl
@[simp] theorem setByte_port (i : Fin 24) (b : Byte) : (s.setByte i b).port = s.port := rfl
@[simp] theorem setByte_observed (i : Fin 24) (b : Byte) : (s.setByte i b).observed = s.observed := rfl

/-! `setLuxKr` -/

@[simp] theorem setLuxKr_cfg (v : DWord) : (s.setLuxKr v).cfg = s.cfg := rfl
@[simp] theorem setLuxKr_err (v : DWord) : (s.setLuxKr v).err = s.err := rfl
@[simp] theorem setLuxKr_errs (v : DWord) : (s.setLuxKr v).errs = s.errs := rfl
@[simp] theorem setLuxKr_crcValid (v : DWord) : (s.setLuxKr v).crcValid = s.crcValid := rfl
@[simp] theorem setLuxKr_crcTOk (v : DWord) : (s.setLuxKr v).crcTOk = s.crcTOk := rfl
@[simp] theorem setLuxKr_crcHOk (v : DWord) : (s.setLuxKr v).crcHOk = s.crcHOk := rfl
@[simp] theorem setLuxKr_ibuf (v : DWord) : (s.setLuxKr v).ibuf = s.ibuf := rfl
@[simp] theorem setLuxKr_ibufLen (v : DWord) : (s.setLuxKr v).ibufLen = s.ibufLen := rfl
@[simp] theorem setLuxKr_ires (v : DWord) : (s.setLuxKr v).ires = s.ires := rfl
@[simp] theorem setLuxKr_res (v : DWord) : (s.setLuxKr v).res = s.res := rfl
@[simp] theorem setLuxKr_resValid (v : DWord) : (s.setLuxKr v).resValid = s.resValid := rfl
@[simp] theorem setLuxKr_luxKr (v : DWord) : (s.setLuxKr v).luxKr = v := rfl
@[simp] theorem setLuxKr_luxKc (v : DWord) : (s.setLuxKr v).luxKc = s.luxKc := rfl
@[simp] theorem setLuxKr_cal (v : DWord) : (s.setLuxKr v).cal = s.cal := rfl
@[simp] theorem setLuxKr_port (v : DWord) : (s.setLuxKr v).port = s.port := rfl
@[simp] theorem setLuxKr_observed (v : DWord) : (s.setLuxKr v).observed = s.observed := rfl

/-! `setLuxKc` -/

@[simp] theorem setLuxKc_cfg (v : DWord) : (s.setLuxKc v).cfg = s.cfg := rfl
@[simp] theorem setLuxKc_err (v : DWord) : (s.setLuxKc v).err = s.err := rfl
@[simp] theorem setLuxKc_errs (v : DWord) : (s.setLuxKc v).errs = s.errs := rfl
@[simp] theorem setLuxKc_crcValid (v : DWord) : (s.setLuxKc v).crcValid = s.crcValid := rfl
@[simp] theorem setLuxKc_crcTOk (v : DWord) : (s.setLuxKc v).crcTOk = s.crcTOk := rfl
@[simp] theorem setLuxKc_crcHOk (v : DWord) : (s.setLuxKc v).crcHOk = s.crcHOk := rfl
@[simp] theorem setLuxKc_ibuf (v : DWord) : (s.setLuxKc v).ibuf = s.ibuf := rfl
@[simp] theorem setLuxKc_ibufLen (v : DWord) : (s.setLuxKc v).ibufLen = s.ibufLen := rfl
@[simp] theorem setLuxKc_ires (v : DWord) : (s.setLuxKc v).ires = s.ires := rfl
@[simp] theorem setLuxKc_res (v : DWord) : (s.setLuxKc v).res = s.res := rfl
@[simp] theorem setLuxKc_resValid (v : DWord) : (s.setLuxKc v).resValid = s.resValid := rfl
@[simp] theorem setLuxKc_luxKr (v : DWord) : (s.setLuxKc v).luxKr = s.luxKr := rfl
@[simp] theorem setLuxKc_luxKc (v : DWord) : (s.setLuxKc v).luxKc = v := rfl
@[simp] theorem setLuxKc_cal (v : DWord) : (s.setLuxKc v).cal = s.cal := rfl
@[simp] theorem setLuxKc_port (v : DWord) : (s.setLuxKc v).port = s.port := rfl
@[simp] theorem setLuxKc_observed (v : DWord) : (s.setLuxKc v).observed = s.observed := rfl

/-! `setPort` -/

@[simp] theorem setPort_cfg (p : List PortEvent) : (s.setPort p).cfg = s.cfg := rfl
@[simp] theorem setPort_err (p : List PortEvent) : (s.setPort p).err = s.err := rfl
@[simp] theorem setPort_errs (p : List PortEvent) : (s.setPort p).errs = s.errs := rfl
@[simp] theorem setPort_crcValid (p : List PortEvent) : (s.setPort p).crcValid = s.crcValid := rfl
@[simp] theorem setPort_crcTOk (p : List PortEvent) : (s.setPort p).crcTOk = s.crcTOk := rfl
@[simp] theorem setPort_crcHOk (p : List PortEvent) : (s.setPort p).crcHOk = s.crcHOk := rfl
@[simp] theorem setPort_ibuf (p : List PortEvent) : (s.setPort p).ibuf = s.ibuf := rfl
@[simp] theorem setPort_ibufLen (p : List PortEvent) : (s.setPort p).ibufLen = s.ibufLen := rfl
@[simp] theorem setPort_ires (p : List PortEvent) : (s.setPort p).ires = s.ires := rfl
@[simp] theorem setPort_res (p : List PortEvent) : (s.setPort p).res = s.res := rfl
@[simp] theorem setPort_resValid (p : List PortEvent) : (s.setPort p).resValid = s.resValid := rfl
@[simp] theorem setPort_luxKr (p : List PortEvent) : (s.setPort p).luxKr = s.luxKr := rfl
@[simp] theorem setPort_luxKc (p : List PortEvent) : (s.setPort p).luxKc = s.luxKc := rfl
@[simp] theorem setPort_cal (p : List PortEvent) : (s.setPort p).cal = s.cal := rfl
@[simp] theorem setPort_port (p : List PortEvent) : (s.setPort p).port = p := rfl
@[simp] theorem setPort_observed (p : List PortEvent) : (s.setPort p).observed = s.observed := rfl

/-! `observe` -/

@[simp] theorem observe_cfg (v : Word) : (s.observe v).cfg = s.cfg := rfl
@[simp] theorem observe_err (v : Word) : (s.observe v).err = s.err := rfl
@[simp] theorem observe_errs (v : Word) : (s.observe v).errs = s.errs := rfl
@[simp] theorem observe_crcValid (v : Word) : (s.observe v).crcValid = s.crcValid := rfl
@[simp] theorem observe_crcTOk (v : Word) : (s.observe v).crcTOk = s.crcTOk := rfl
@[simp] theorem observe_crcHOk (v : Word) : (s.observe v).crcHOk = s.crcHOk := rfl
@[simp] theorem observe_ibuf (v : Word) : (s.observe v).ibuf = s.ibuf := rfl
@[simp] theorem observe_ibufLen (v : Word) : (s.observe v).ibufLen = s.ibufLen := rfl
@[simp] theorem observe_ires (v : Word) : (s.observe v).ires = s.ires := rfl
@[simp] theorem observe_res (v : Word) : (s.observe v).res = s.res := rfl
@[simp] theorem observe_resValid (v : Word) : (s.observe v).resValid = s.resValid := rfl
@[simp] theorem observe_luxKr (v : Word) : (s.observe v).luxKr = s.luxKr := rfl
@[simp] theorem observe_luxKc (v : Word) : (s.observe v).luxKc = s.luxKc := rfl
@[simp] theorem observe_cal (v : Word) : (s.observe v).cal = s.cal := rfl
@[simp] theorem observe_port (v : Word) : (s.observe v).port = s.port := rfl
@[simp] theorem observe_observed (v : Word) : (s.observe v).observed = s.observed ++ [v] := rfl

/-! `platformReset` -/

@[simp] theorem platformReset_cfg : (s.platformReset).cfg = s.cfg := rfl
@[simp] theorem platformReset_err : (s.platformReset).err = State.reset.err := rfl
@[simp] theorem platformReset_errs : (s.platformReset).errs = State.reset.errs := rfl
@[simp] theorem platformReset_crcValid : (s.platformReset).crcValid = State.reset.crcValid := rfl
@[simp] theorem platformReset_crcTOk : (s.platformReset).crcTOk = State.reset.crcTOk := rfl
@[simp] theorem platformReset_crcHOk : (s.platformReset).crcHOk = State.reset.crcHOk := rfl
@[simp] theorem platformReset_ibuf : (s.platformReset).ibuf = State.reset.ibuf := rfl
@[simp] theorem platformReset_ibufLen : (s.platformReset).ibufLen = State.reset.ibufLen := rfl
@[simp] theorem platformReset_ires : (s.platformReset).ires = State.reset.ires := rfl
@[simp] theorem platformReset_res : (s.platformReset).res = State.reset.res := rfl
@[simp] theorem platformReset_resValid : (s.platformReset).resValid = State.reset.resValid := rfl
@[simp] theorem platformReset_luxKr : (s.platformReset).luxKr = State.reset.luxKr := rfl
@[simp] theorem platformReset_luxKc : (s.platformReset).luxKc = State.reset.luxKc := rfl
@[simp] theorem platformReset_cal : (s.platformReset).cal = State.reset.cal := rfl
@[simp] theorem platformReset_port : (s.platformReset).port = s.port := rfl
@[simp] theorem platformReset_observed : (s.platformReset).observed = s.observed := rfl

end Sys2Proof.Machine.State
end

