-- ==== Sys2Proof/Laws/Ops.lean ====
section
/-! SUPPORT. What each shared operation of Machine/Ops.lean can do, said once. -/

namespace Sys2Proof.Machine

variable {s t : State}

/-- Raising answers exactly the state with the code and the sticky bit (60_exceptions.md R171). -/
theorem raise_eq_next {e : ErrCode} : raise e s = .next t ↔ t = s.setErr e := by
  unfold raise
  constructor
  · intro h; exact (Host.Outcome.next.inj h).symm
  · rintro rfl; rfl

/-- Completing answers exactly the state with code OK. -/
theorem complete_eq_next : complete s = .next t ↔ t = s.setOk := by
  unfold complete
  constructor
  · intro h; exact (Host.Outcome.next.inj h).symm
  · rintro rfl; rfl

theorem onSlot_exists {slot : Fin 4} {run : CalSlot → Answer} (h : slotExists s.cfg slot = true) :
    onSlot slot s run = run s.cal[slot] := if_pos h

theorem onSlot_absent {slot : Fin 4} {run : CalSlot → Answer} (h : slotExists s.cfg slot = false) :
    onSlot slot s run = raise .illegalCmd s := if_neg (by simp [h])

/-- A slot command answers its run's answer on a slot that exists, or ILLEGAL_CMD. -/
theorem onSlot_cases {slot : Fin 4} {run : CalSlot → Answer} (h : onSlot slot s run = .next t) :
    (slotExists s.cfg slot = true ∧ run s.cal[slot] = .next t) ∨
      (slotExists s.cfg slot = false ∧ t = s.setErr .illegalCmd) := by
  cases hx : slotExists s.cfg slot with
  | true => exact .inl ⟨rfl, by rwa [onSlot_exists hx] at h⟩
  | false => exact .inr ⟨rfl, by rwa [onSlot_absent hx, raise_eq_next] at h⟩

theorem onBytes_run {off : Fin 32} {w : Nat} {run : Answer} (hf : offFits off w = true)
    (hl : off.val + w ≤ s.ibufLen.toNat) : onBytes off w s run = run := by
  unfold onBytes; rw [if_pos hf, if_neg (by omega)]

theorem onBytes_short {off : Fin 32} {w : Nat} {run : Answer} (hf : offFits off w = true)
    (hl : s.ibufLen.toNat < off.val + w) : onBytes off w s run = raise .incompleteSample s := by
  unfold onBytes; rw [if_pos hf, if_pos hl]

theorem onBytes_unfit {off : Fin 32} {w : Nat} {run : Answer} (hf : offFits off w = false) :
    onBytes off w s run = raise .illegalCmd s := by
  unfold onBytes; rw [if_neg (by simp [hf])]

/-- A codec command's fetch runs, or raises one of two errors (40_codec.md R100; 30_encoding.md R75). -/
theorem onBytes_cases {off : Fin 32} {w : Nat} {run : Answer} (h : onBytes off w s run = .next t) :
    (offFits off w = true ∧ off.val + w ≤ s.ibufLen.toNat ∧ run = .next t) ∨
      (offFits off w = true ∧ s.ibufLen.toNat < off.val + w ∧ t = s.setErr .incompleteSample) ∨
      (offFits off w = false ∧ t = s.setErr .illegalCmd) := by
  cases hf : offFits off w with
  | false => exact .inr (.inr ⟨rfl, by rwa [onBytes_unfit hf, raise_eq_next] at h⟩)
  | true =>
    rcases Nat.lt_or_ge s.ibufLen.toNat (off.val + w) with hl | hl
    · exact .inr (.inl ⟨rfl, hl, by rwa [onBytes_short hf hl, raise_eq_next] at h⟩)
    · exact .inl ⟨rfl, hl, by rwa [onBytes_run hf hl] at h⟩

theorem onLength_run {n : Nat} {e : ErrCode} {run : Answer} (h : s.ibufLen.toNat = n) : onLength n e s run = run :=
  if_pos h

theorem onLength_wrong {n : Nat} {e : ErrCode} {run : Answer} (h : s.ibufLen.toNat ≠ n) :
    onLength n e s run = raise e s := if_neg h

/-- A length check runs on the exact length, or raises (60_exceptions.md R172). -/
theorem onLength_cases {n : Nat} {e : ErrCode} {run : Answer} (h : onLength n e s run = .next t) :
    (s.ibufLen.toNat = n ∧ run = .next t) ∨ (s.ibufLen.toNat ≠ n ∧ t = s.setErr e) := by
  by_cases hl : s.ibufLen.toNat = n
  · exact .inl ⟨hl, by rwa [onLength_run hl] at h⟩
  · exact .inr ⟨hl, by rwa [onLength_wrong hl, raise_eq_next] at h⟩

/-- A slot reads what was last written to it. -/
theorem setCal_same (s : State) (k : Fin 4) (c : CalSlot) : (s.setCal k c).cal[k] = c := by simp

/-- Writing a slot leaves the others. -/
theorem setCal_other (s : State) {k j : Fin 4} (h : k ≠ j) (c : CalSlot) : (s.setCal k c).cal[j] = s.cal[j] := by
  have : k.val ≠ j.val := fun e => h (Fin.ext e)
  simp [this]

/-- A byte of IBUF reads what was last written to it. -/
theorem setByte_same (s : State) (i : Fin 24) (b : Byte) : (s.setByte i b).ibuf[i] = b := by simp

/-- Writing a byte of IBUF leaves the others. -/
theorem setByte_other (s : State) {i j : Fin 24} (h : i ≠ j) (b : Byte) : (s.setByte i b).ibuf[j] = s.ibuf[j] := by
  have : i.val ≠ j.val := fun e => h (Fin.ext e)
  simp [this]

/-- A byte of IBUF below 24 is the register's. -/
theorem byte_of_lt (s : State) {i : Nat} (h : i < 24) : s.byte i = s.ibuf[i] := by
  simp [State.byte, h]

end Sys2Proof.Machine
end

