-- ==== Sys2Proof/Laws/Exec.lean ====
section
/-! SUPPORT. What each command can do, said once: the cases of its answer. -/

namespace Sys2Proof.Machine

variable {s t : State}

theorem execNop_cases (h : execNop s = .next t) : t = s.setOk := complete_eq_next.1 h

theorem execDecBe16_cases {off : Fin 32} (h : execDecBe16 off s = .next t) :
    (offFits off 2 = true ∧ off.val + 2 ≤ s.ibufLen.toNat ∧
        t = (s.setIres ((s.be16At off.val).zeroExtend 32)).setOk) ∨
      (offFits off 2 = true ∧ s.ibufLen.toNat < off.val + 2 ∧ t = s.setErr .incompleteSample) ∨
      (offFits off 2 = false ∧ t = s.setErr .illegalCmd) := by
  rcases onBytes_cases h with ⟨h1, h2, h3⟩ | h' | h'
  · exact .inl ⟨h1, h2, complete_eq_next.1 h3⟩
  · exact .inr (.inl h')
  · exact .inr (.inr h')

theorem execDecLe16_cases {off : Fin 32} (h : execDecLe16 off s = .next t) :
    (offFits off 2 = true ∧ off.val + 2 ≤ s.ibufLen.toNat ∧
        t = (s.setIres ((s.le16At off.val).zeroExtend 32)).setOk) ∨
      (offFits off 2 = true ∧ s.ibufLen.toNat < off.val + 2 ∧ t = s.setErr .incompleteSample) ∨
      (offFits off 2 = false ∧ t = s.setErr .illegalCmd) := by
  rcases onBytes_cases h with ⟨h1, h2, h3⟩ | h' | h'
  · exact .inl ⟨h1, h2, complete_eq_next.1 h3⟩
  · exact .inr (.inl h')
  · exact .inr (.inr h')

theorem execDec20_cases {off : Fin 32} (h : execDec20 off s = .next t) :
    (offFits off 3 = true ∧ off.val + 3 ≤ s.ibufLen.toNat ∧
        t = (s.setIres ((s.dec20At off.val).zeroExtend 32)).setOk) ∨
      (offFits off 3 = true ∧ s.ibufLen.toNat < off.val + 3 ∧ t = s.setErr .incompleteSample) ∨
      (offFits off 3 = false ∧ t = s.setErr .illegalCmd) := by
  rcases onBytes_cases h with ⟨h1, h2, h3⟩ | h' | h'
  · exact .inl ⟨h1, h2, complete_eq_next.1 h3⟩
  · exact .inr (.inl h')
  · exact .inr (.inr h')

theorem execToS16_cases (h : execToS16 s = .next t) :
    t = (s.setIres (BitVec.ofInt 32 (toSigned16 (s.ires.extractLsb' 0 16)))).setOk := complete_eq_next.1 h

theorem execCalLoad_cases {slot : Fin 4} (h : execCalLoad slot s = .next t) :
    (slotExists s.cfg slot = true ∧ (s.cal[slot]).valid = false ∧ s.ibufLen.toNat = 24 ∧
        t = (s.setCal slot ⟨true, s.calBlock⟩).setOk) ∨
      (slotExists s.cfg slot = true ∧ (s.cal[slot]).valid = false ∧ s.ibufLen.toNat ≠ 24 ∧
        t = s.setErr .incompleteCal) ∨
      (slotExists s.cfg slot = true ∧ (s.cal[slot]).valid = true ∧ t = s.setErr .calLocked) ∨
      (slotExists s.cfg slot = false ∧ t = s.setErr .illegalCmd) := by
  rcases onSlot_cases h with ⟨hx, h⟩ | h'
  · cases hv : (s.cal[slot]).valid with
    | true =>
      simp only [hv, if_true] at h
      exact .inr (.inr (.inl ⟨hx, rfl, raise_eq_next.1 h⟩))
    | false =>
      simp only [hv, Bool.false_eq_true, if_false] at h
      rcases onLength_cases h with ⟨h1, h2⟩ | ⟨h1, h2⟩
      · exact .inl ⟨hx, rfl, h1, complete_eq_next.1 h2⟩
      · exact .inr (.inl ⟨hx, rfl, h1, h2⟩)
  · exact .inr (.inr (.inr h'))

theorem execCalRelease_cases {slot : Fin 4} (h : execCalRelease slot s = .next t) :
    (slotExists s.cfg slot = true ∧ t = (s.setCal slot CalSlot.empty).setOk) ∨
      (slotExists s.cfg slot = false ∧ t = s.setErr .illegalCmd) := by
  rcases onSlot_cases h with ⟨hx, h⟩ | h'
  · exact .inl ⟨hx, complete_eq_next.1 h⟩
  · exact .inr h'

theorem execCompPt_cases {slot : Fin 4} (h : execCompPt slot s = .next t) :
    (slotExists s.cfg slot = true ∧ (s.cal[slot]).valid = true ∧ s.ibufLen.toNat = 6 ∧
        t = ((s.setResValid 0#9).writePt (temperature ((s.cal[slot]).tFine (s.dec20At 0)))
          ((s.cal[slot]).pressure s.cfg.sqGroup (s.dec20At 0) (s.dec20At 3))
          ((s.cal[slot]).tFine (s.dec20At 0))).setOk) ∨
      (slotExists s.cfg slot = true ∧ (s.cal[slot]).valid = true ∧ s.ibufLen.toNat ≠ 6 ∧
        t = (s.setResValid 0#9).setErr .incompleteSample) ∨
      (slotExists s.cfg slot = true ∧ (s.cal[slot]).valid = false ∧
        t = (s.setResValid 0#9).setErr .notCalibrated) ∨
      (slotExists s.cfg slot = false ∧ t = s.setErr .illegalCmd) := by
  rcases onSlot_cases h with ⟨hx, h⟩ | h'
  · cases hv : (s.cal[slot]).valid with
    | true =>
      simp only [hv, if_true] at h
      rcases onLength_cases h with ⟨h1, h2⟩ | ⟨h1, h2⟩
      · exact .inl ⟨hx, rfl, h1, complete_eq_next.1 h2⟩
      · exact .inr (.inl ⟨hx, rfl, h1, h2⟩)
    | false =>
      simp only [hv, Bool.false_eq_true, if_false] at h
      exact .inr (.inr (.inl ⟨hx, rfl, raise_eq_next.1 h⟩))
  · exact .inr (.inr (.inr h'))

theorem execCompRh_cases (h : execCompRh s = .next t) :
    (s.ibufLen.toNat = 6 ∧
        t = ((s.setResValid 0#9).writeRh (rhTemperature (s.be16At 0)) (rhHumidity (s.be16At 3))).setOk) ∨
      (s.ibufLen.toNat ≠ 6 ∧ t = (s.setResValid 0#9).setErr .incompleteSample) := by
  rcases onLength_cases h with ⟨h1, h2⟩ | h'
  · exact .inl ⟨h1, complete_eq_next.1 h2⟩
  · exact .inr h'

theorem crcRhWith_cases {crc : Byte → Byte → Byte} (h : crcRhWith crc s = .next t) :
    (s.ibufLen.toNat = 6 ∧
        t = (s.setCrc true (crc (s.byte 0) (s.byte 1) == s.byte 2) (crc (s.byte 3) (s.byte 4) == s.byte 5)).setOk) ∨
      (s.ibufLen.toNat ≠ 6 ∧ t = (s.setCrc false false false).setErr .incompleteSample) := by
  rcases onLength_cases h with ⟨h1, h2⟩ | h'
  · exact .inl ⟨h1, complete_eq_next.1 h2⟩
  · exact .inr h'

theorem execCompLux_cases (h : execCompLux s = .next t) :
    (s.ibufLen.toNat = 8 ∧ (F64.ofBits s.luxKr).finite = true ∧ (F64.ofBits s.luxKc).finite = true ∧
        (luxSum (F64.ofBits s.luxKr) (F64.ofBits s.luxKc) (s.le16At 0) (s.le16At 2)).finite = true ∧
        t = ((s.setResValid 0#9).writeLux
          (luxClamp (luxSum (F64.ofBits s.luxKr) (F64.ofBits s.luxKc) (s.le16At 0) (s.le16At 2)))
          (s.le16At 0) (s.le16At 2) (s.le16At 4) (s.le16At 6)).setOk) ∨
      (s.ibufLen.toNat = 8 ∧ t = (s.setResValid 0#9).setErr .badCoeff ∧
        ((F64.ofBits s.luxKr).finite = false ∨ (F64.ofBits s.luxKc).finite = false ∨
          (luxSum (F64.ofBits s.luxKr) (F64.ofBits s.luxKc) (s.le16At 0) (s.le16At 2)).finite = false)) ∨
      (s.ibufLen.toNat ≠ 8 ∧ t = (s.setResValid 0#9).setErr .incompleteSample) := by
  rcases onLength_cases h with ⟨h1, h2⟩ | h'
  · split_ifs at h2 with hk hx
    · simp only [Bool.and_eq_true] at hk
      exact .inl ⟨h1, hk.1, hk.2, hx, complete_eq_next.1 h2⟩
    · exact .inr (.inl ⟨h1, raise_eq_next.1 h2, .inr (.inr (by simpa using hx))⟩)
    · refine .inr (.inl ⟨h1, raise_eq_next.1 h2, ?_⟩)
      simp only [Bool.and_eq_true, not_and, Bool.not_eq_true] at hk
      cases hr : (F64.ofBits s.luxKr).finite with
      | false => exact .inl rfl
      | true => exact .inr (.inl (hk hr))
  · exact .inr (.inr h')

/-- Every command answers a next state: an error is a code, not a stop (60_exceptions.md R177). -/
theorem exec_answers_next (i : Instr) (s : State) : ∃ t, exec i s = .next t := by
  cases i <;>
    simp only [exec, execNop, execDecBe16, execDecLe16, execDec20, execToS16, execCalLoad, execCalRelease,
      execCompPt, execCompRh, execCompLux, execCrcRh, crcRhWith, codecResult, onBytes, onSlot, onLength, raise,
      complete] <;>
    (repeat' split) <;> exact ⟨_, rfl⟩

/-- So does every word written to CMD. -/
theorem execute_answers_next (w : Word) (s : State) : ∃ t, execute w s = .next t := by
  unfold execute
  split
  · exact exec_answers_next _ _
  · exact ⟨_, rfl⟩

/-- A word written to CMD runs the command it decodes to, or raises ILLEGAL_CMD. -/
theorem execute_cases {w : Word} (h : execute w s = .next t) :
    (∃ i, decode s.cfg w = .ok i ∧ exec i s = .next t) ∨
      ((∃ e, decode s.cfg w = .error e) ∧ t = s.setErr .illegalCmd) := by
  unfold execute at h
  cases hd : decode s.cfg w with
  | ok i => rw [hd] at h; exact .inl ⟨i, rfl, h⟩
  | error e => rw [hd] at h; exact .inr ⟨⟨e, rfl⟩, raise_eq_next.1 h⟩

/-- One step: nothing, or the first event served. -/
theorem step_cases (h : step s = .next t) :
    (s.port = [] ∧ t = s) ∨ ∃ e rest, s.port = e :: rest ∧ serve e (s.setPort rest) = .next t := by
  unfold step at h
  cases hp : s.port with
  | nil => rw [hp] at h; exact .inl ⟨rfl, (Host.Outcome.next.inj h).symm⟩
  | cons e rest => rw [hp] at h; exact .inr ⟨e, rest, rfl, h⟩

/-- Serving an event: a read observes, a write of CMD executes, another write stores, a reset resets. -/
theorem serve_cases {e : PortEvent} (h : serve e s = .next t) :
    (∃ off, e = .read off ∧ aligned off = true ∧ t = s.observe (s.readAt off)) ∨
      (∃ w, e = cmdWrite w ∧ execute w s = .next t) ∨
      (∃ off v, e = .write off v ∧ aligned off = true ∧ off ≠ Reg.cmd.offset ∧ t = s.writeAt off v) ∨
      (e = .reset ∧ t = s.platformReset) := by
  cases e with
  | read off =>
    simp only [serve, hostRead] at h
    split_ifs at h with ha
    exact .inl ⟨off, rfl, ha, (Host.Outcome.next.inj h).symm⟩
  | write off v =>
    simp only [serve, hostWrite] at h
    split_ifs at h with ha hc
    · subst hc; exact .inr (.inl ⟨v, rfl, h⟩)
    · exact .inr (.inr (.inl ⟨off, v, rfl, ha, hc, (Host.Outcome.next.inj h).symm⟩))
  | reset => exact .inr (.inr (.inr ⟨rfl, (Host.Outcome.next.inj h).symm⟩))

end Sys2Proof.Machine
end

