-- ==== Sys2Proof/Laws/PerInstr.lean ====
section
/-! SUPPORT. Family RowBits: the word of a command is in the command's row of spec/opcode_table.json, whatever its fields. -/

namespace Sys2Proof.Laws.RowBits

/-- The word of `i` has the fixed bits its row of the opcode table prints (30_encoding.md R75). -/
def Statement (i : Instr) : Prop := i.row.holds (encode i) = true

theorem nop : Statement .nop := by unfold Statement; decide
theorem decBe16 (off : Fin 32) : Statement (.decBe16 off) := by unfold Statement; revert off; decide
theorem decLe16 (off : Fin 32) : Statement (.decLe16 off) := by unfold Statement; revert off; decide
theorem dec20 (off : Fin 32) : Statement (.dec20 off) := by unfold Statement; revert off; decide
theorem toS16 : Statement .toS16 := by unfold Statement; decide
theorem calLoad (slot : Fin 4) : Statement (.calLoad slot) := by unfold Statement; revert slot; decide
theorem calRelease (slot : Fin 4) : Statement (.calRelease slot) := by unfold Statement; revert slot; decide
theorem compPt (slot : Fin 4) : Statement (.compPt slot) := by unfold Statement; revert slot; decide
theorem compRh : Statement .compRh := by unfold Statement; decide
theorem compLux : Statement .compLux := by unfold Statement; decide
theorem crcRh : Statement .crcRh := by unfold Statement; decide

end Sys2Proof.Laws.RowBits
end

