-- ==== Sys2Proof/Laws/RegMap.lean ====
section
/-! SUPPORT. The register map read in both directions (20_memory.md R40, R41): every register is found at its offset, and
whatever is found at an aligned offset has that offset. -/

namespace Sys2Proof.Machine

theorem Reg.offsetNat_lt (r : Reg) : r.offsetNat < 4096 := by
  cases r <;> simp only [Reg.offsetNat] <;> omega

theorem Reg.offset_toNat (r : Reg) : r.offset.toNat = r.offsetNat := by
  unfold Reg.offset
  rw [BitVec.toNat_ofNat]
  exact Nat.mod_eq_of_lt r.offsetNat_lt

theorem aligned_iff (off : Off) : aligned off = true ↔ off.toNat % 4 = 0 := by
  unfold aligned
  rw [beq_iff_eq, ← BitVec.toNat_inj]
  simp

theorem Reg.offset_aligned (r : Reg) : aligned r.offset = true := by
  rw [aligned_iff, Reg.offset_toNat]
  cases r <;> simp only [Reg.offsetNat] <;> omega

/-- A register that exists is the one at its offset. -/
theorem Reg.at_offset {cfg : Params} {r : Reg} (h : r.present cfg = true) : Reg.at cfg r.offset = some r := by
  obtain ⟨e, g⟩ := cfg
  cases r with
  | ibufW k => revert k; cases g <;> revert e <;> decide
  | resLo k => revert k; cases g <;> revert e <;> decide
  | resHi k => revert k; cases g <;> revert e <;> decide
  | cal s k => revert s k; cases g <;> revert e <;> decide
  | _ => cases g <;> revert e <;> decide

/-- What is found at an aligned offset exists and has that offset. -/
theorem Reg.offset_of_at {cfg : Params} {off : Off} {r : Reg} (ha : aligned off = true)
    (h : Reg.at cfg off = some r) : r.offset = off ∧ r.present cfg = true := by
  rw [aligned_iff] at ha
  suffices hs : r.offsetNat = off.toNat ∧ r.present cfg = true by
    refine ⟨?_, hs.2⟩
    rw [← BitVec.toNat_inj, Reg.offset_toNat]
    exact hs.1
  unfold Reg.at at h
  simp only at h
  split_ifs at h with h1 h2 h3 h4 h5 h6
  · cases h; simp only [Reg.offsetNat]; exact ⟨by omega, rfl⟩
  · cases h; simp only [Reg.offsetNat]; exact ⟨by omega, rfl⟩
  · cases h; simp only [Reg.offsetNat]; exact ⟨by omega, rfl⟩
  · cases h; simp only [Reg.offsetNat, Reg.present]; exact ⟨by omega, h6⟩
  · have hm := List.mem_of_find?_eq_some h
    have hp := List.find?_some h
    refine ⟨by simpa using hp, ?_⟩
    simp only [Reg.singles, List.mem_cons, List.not_mem_nil, or_false] at hm
    rcases hm with rfl | rfl | rfl | rfl | rfl | rfl | rfl | rfl | rfl | rfl <;> rfl

/-- Two registers never share an offset. -/
theorem Reg.offset_inj {r q : Reg} (hr : r.present ⟨3, .squareFirst⟩ = true) (hq : q.present ⟨3, .squareFirst⟩ = true)
    (h : r.offset = q.offset) : r = q := by
  have h1 := Reg.at_offset hr
  rw [h, Reg.at_offset hq] at h1
  exact (Option.some.inj h1).symm

end Sys2Proof.Machine
end

