-- ==== Sys2Proof/Laws/Results.lean ====
section
/-! SUPPORT. What the composite updates do to each field of State: the results of the three compensation commands, and a write of
a word of IBUF. -/

namespace Sys2Proof.Machine.State

variable (s : State)

/-! `writePt` -/

@[simp] theorem writePt_cfg (a b c : F64) : (s.writePt a b c).cfg = s.cfg := rfl
@[simp] theorem writePt_err (a b c : F64) : (s.writePt a b c).err = s.err := rfl
@[simp] theorem writePt_errs (a b c : F64) : (s.writePt a b c).errs = s.errs := rfl
@[simp] theorem writePt_crcValid (a b c : F64) : (s.writePt a b c).crcValid = s.crcValid := rfl
@[simp] theorem writePt_crcTOk (a b c : F64) : (s.writePt a b c).crcTOk = s.crcTOk := rfl
@[simp] theorem writePt_crcHOk (a b c : F64) : (s.writePt a b c).crcHOk = s.crcHOk := rfl
@[simp] theorem writePt_ibuf (a b c : F64) : (s.writePt a b c).ibuf = s.ibuf := rfl
@[simp] theorem writePt_ibufLen (a b c : F64) : (s.writePt a b c).ibufLen = s.ibufLen := rfl
@[simp] theorem writePt_ires (a b c : F64) : (s.writePt a b c).ires = s.ires := rfl
@[simp] theorem writePt_resValid (a b c : F64) : (s.writePt a b c).resValid = validPt := rfl
@[simp] theorem writePt_luxKr (a b c : F64) : (s.writePt a b c).luxKr = s.luxKr := rfl
@[simp] theorem writePt_luxKc (a b c : F64) : (s.writePt a b c).luxKc = s.luxKc := rfl
@[simp] theorem writePt_cal (a b c : F64) : (s.writePt a b c).cal = s.cal := rfl
@[simp] theorem writePt_port (a b c : F64) : (s.writePt a b c).port = s.port := rfl
@[simp] theorem writePt_observed (a b c : F64) : (s.writePt a b c).observed = s.observed := rfl

/-! `writeRh` -/

@[simp] theorem writeRh_cfg (a b : F64) : (s.writeRh a b).cfg = s.cfg := rfl
@[simp] theorem writeRh_err (a b : F64) : (s.writeRh a b).err = s.err := rfl
@[simp] theorem writeRh_errs (a b : F64) : (s.writeRh a b).errs = s.errs := rfl
@[simp] theorem writeRh_crcValid (a b : F64) : (s.writeRh a b).crcValid = s.crcValid := rfl
@[simp] theorem writeRh_crcTOk (a b : F64) : (s.writeRh a b).crcTOk = s.crcTOk := rfl
@[simp] theorem writeRh_crcHOk (a b : F64) : (s.writeRh a b).crcHOk = s.crcHOk := rfl
@[simp] theorem writeRh_ibuf (a b : F64) : (s.writeRh a b).ibuf = s.ibuf := rfl
@[simp] theorem writeRh_ibufLen (a b : F64) : (s.writeRh a b).ibufLen = s.ibufLen := rfl
@[simp] theorem writeRh_ires (a b : F64) : (s.writeRh a b).ires = s.ires := rfl
@[simp] theorem writeRh_resValid (a b : F64) : (s.writeRh a b).resValid = validRh := rfl
@[simp] theorem writeRh_luxKr (a b : F64) : (s.writeRh a b).luxKr = s.luxKr := rfl
@[simp] theorem writeRh_luxKc (a b : F64) : (s.writeRh a b).luxKc = s.luxKc := rfl
@[simp] theorem writeRh_cal (a b : F64) : (s.writeRh a b).cal = s.cal := rfl
@[simp] theorem writeRh_port (a b : F64) : (s.writeRh a b).port = s.port := rfl
@[simp] theorem writeRh_observed (a b : F64) : (s.writeRh a b).observed = s.observed := rfl

/-! `writeLux` -/

@[simp] theorem writeLux_cfg (a : F64) (b c d e : Half) : (s.writeLux a b c d e).cfg = s.cfg := rfl
@[simp] theorem writeLux_err (a : F64) (b c d e : Half) : (s.writeLux a b c d e).err = s.err := rfl
@[simp] theorem writeLux_errs (a : F64) (b c d e : Half) : (s.writeLux a b c d e).errs = s.errs := rfl
@[simp] theorem writeLux_crcValid (a : F64) (b c d e : Half) : (s.writeLux a b c d e).crcValid = s.crcValid := rfl
@[simp] theorem writeLux_crcTOk (a : F64) (b c d e : Half) : (s.writeLux a b c d e).crcTOk = s.crcTOk := rfl
@[simp] theorem writeLux_crcHOk (a : F64) (b c d e : Half) : (s.writeLux a b c d e).crcHOk = s.crcHOk := rfl
@[simp] theorem writeLux_ibuf (a : F64) (b c d e : Half) : (s.writeLux a b c d e).ibuf = s.ibuf := rfl
@[simp] theorem writeLux_ibufLen (a : F64) (b c d e : Half) : (s.writeLux a b c d e).ibufLen = s.ibufLen := rfl
@[simp] theorem writeLux_ires (a : F64) (b c d e : Half) : (s.writeLux a b c d e).ires = s.ires := rfl
@[simp] theorem writeLux_resValid (a : F64) (b c d e : Half) : (s.writeLux a b c d e).resValid = validLux := rfl
@[simp] theorem writeLux_luxKr (a : F64) (b c d e : Half) : (s.writeLux a b c d e).luxKr = s.luxKr := rfl
@[simp] theorem writeLux_luxKc (a : F64) (b c d e : Half) : (s.writeLux a b c d e).luxKc = s.luxKc := rfl
@[simp] theorem writeLux_cal (a : F64) (b c d e : Half) : (s.writeLux a b c d e).cal = s.cal := rfl
@[simp] theorem writeLux_port (a : F64) (b c d e : Half) : (s.writeLux a b c d e).port = s.port := rfl
@[simp] theorem writeLux_observed (a : F64) (b c d e : Half) : (s.writeLux a b c d e).observed = s.observed := rfl

/-! `setIbufWord` -/

@[simp] theorem setIbufWord_cfg (k : Fin 6) (v : Word) : (s.setIbufWord k v).cfg = s.cfg := rfl
@[simp] theorem setIbufWord_err (k : Fin 6) (v : Word) : (s.setIbufWord k v).err = s.err := rfl
@[simp] theorem setIbufWord_errs (k : Fin 6) (v : Word) : (s.setIbufWord k v).errs = s.errs := rfl
@[simp] theorem setIbufWord_crcValid (k : Fin 6) (v : Word) : (s.setIbufWord k v).crcValid = s.crcValid := rfl
@[simp] theorem setIbufWord_crcTOk (k : Fin 6) (v : Word) : (s.setIbufWord k v).crcTOk = s.crcTOk := rfl
@[simp] theorem setIbufWord_crcHOk (k : Fin 6) (v : Word) : (s.setIbufWord k v).crcHOk = s.crcHOk := rfl
@[simp] theorem setIbufWord_ibufLen (k : Fin 6) (v : Word) : (s.setIbufWord k v).ibufLen = s.ibufLen := rfl
@[simp] theorem setIbufWord_ires (k : Fin 6) (v : Word) : (s.setIbufWord k v).ires = s.ires := rfl
@[simp] theorem setIbufWord_res (k : Fin 6) (v : Word) : (s.setIbufWord k v).res = s.res := rfl
@[simp] theorem setIbufWord_resValid (k : Fin 6) (v : Word) : (s.setIbufWord k v).resValid = s.resValid := rfl
@[simp] theorem setIbufWord_luxKr (k : Fin 6) (v : Word) : (s.setIbufWord k v).luxKr = s.luxKr := rfl
@[simp] theorem setIbufWord_luxKc (k : Fin 6) (v : Word) : (s.setIbufWord k v).luxKc = s.luxKc := rfl
@[simp] theorem setIbufWord_cal (k : Fin 6) (v : Word) : (s.setIbufWord k v).cal = s.cal := rfl
@[simp] theorem setIbufWord_port (k : Fin 6) (v : Word) : (s.setIbufWord k v).port = s.port := rfl
@[simp] theorem setIbufWord_observed (k : Fin 6) (v : Word) : (s.setIbufWord k v).observed = s.observed := rfl

/-! The result registers -/

@[simp] theorem writePt_temp (a b c : F64) : (s.writePt a b c).res[0] = a.toBits := by simp [writePt]
@[simp] theorem writePt_pres (a b c : F64) : (s.writePt a b c).res[1] = b.toBits := by simp [writePt]
@[simp] theorem writePt_tfine (a b c : F64) : (s.writePt a b c).res[8] = c.toBits := by simp [writePt]

theorem writePt_other (a b c : F64) (k : Fin 9) (h : 2 ≤ k.val ∧ k.val ≤ 7) :
    (s.writePt a b c).res[k] = s.res[k] := by
  have h0 : 0 ≠ k.val := by omega
  have h1 : 1 ≠ k.val := by omega
  have h8 : 8 ≠ k.val := by omega
  simp [writePt, h0, h1, h8]

@[simp] theorem writeRh_temp (a b : F64) : (s.writeRh a b).res[0] = a.toBits := by simp [writeRh]
@[simp] theorem writeRh_hum (a b : F64) : (s.writeRh a b).res[2] = b.toBits := by simp [writeRh]

theorem writeRh_other (a b : F64) (k : Fin 9) (h : k ≠ 0 ∧ k ≠ 2) : (s.writeRh a b).res[k] = s.res[k] := by
  have h0 : 0 ≠ k.val := fun e => h.1 (Fin.ext e.symm)
  have h2 : 2 ≠ k.val := fun e => h.2 (Fin.ext e.symm)
  simp [writeRh, h0, h2]

@[simp] theorem writeLux_lux (a : F64) (b c d e : Half) : (s.writeLux a b c d e).res[3] = a.toBits := by
  simp [writeLux]
@[simp] theorem writeLux_clear (a : F64) (b c d e : Half) : (s.writeLux a b c d e).res[4] = (count b).toBits := by
  simp [writeLux]
@[simp] theorem writeLux_red (a : F64) (b c d e : Half) : (s.writeLux a b c d e).res[5] = (count c).toBits := by
  simp [writeLux]
@[simp] theorem writeLux_green (a : F64) (b c d e : Half) : (s.writeLux a b c d e).res[6] = (count d).toBits := by
  simp [writeLux]
@[simp] theorem writeLux_blue (a : F64) (b c d e : Half) : (s.writeLux a b c d e).res[7] = (count e).toBits := by
  simp [writeLux]

theorem writeLux_other (a : F64) (b c d e : Half) (k : Fin 9) (h : k.val < 3 ∨ k.val = 8) :
    (s.writeLux a b c d e).res[k] = s.res[k] := by
  have h3 : 3 ≠ k.val := by omega
  have h4 : 4 ≠ k.val := by omega
  have h5 : 5 ≠ k.val := by omega
  have h6 : 6 ≠ k.val := by omega
  have h7 : 7 ≠ k.val := by omega
  simp [writeLux, h3, h4, h5, h6, h7]

/-- A write of IBUF_Wk puts byte j of the word at IBUF[4k+j] and leaves the other bytes (20_memory.md R43, R45). -/
theorem setIbufWord_byte (k : Fin 6) (v : Word) (i : Fin 24) :
    (s.setIbufWord k v).ibuf[i] =
      if i.val / 4 = k.val then v.extractLsb' (8 * (i.val % 4)) 8 else s.ibuf[i] := by
  have hi := i.isLt
  simp only [setIbufWord, setByte_ibuf, byteIndex, Fin.getElem_fin, Vector.getElem_set]
  by_cases h : i.val / 4 = k.val
  · have hm : i.val % 4 = 0 ∨ i.val % 4 = 1 ∨ i.val % 4 = 2 ∨ i.val % 4 = 3 := by omega
    rcases hm with hm | hm | hm | hm <;> rw [hm] <;> simp only [h, if_true] <;> split_ifs <;> first | rfl | omega
  · simp only [h, if_false]
    split_ifs <;> first | rfl | (exfalso; omega)

end Sys2Proof.Machine.State
end

