-- ==== Sys2Proof/Laws/System.lean ====
section
/-! SUPPORT. Lemmas of the host layer: fields under its updates, what its operations can do, and the one induction over runs. -/

namespace Sys2Proof.Machine

variable {y z : System}

/-- A read never returns more bytes than it asked for. -/
theorem BusReply.bytes_length_le (len : Nat) (r : BusReply) : (r.bytes len).length ≤ len := by
  cases r <;> simp [BusReply.bytes]

/-- A read that fails has received fewer bytes than it asked for. -/
theorem BusReply.bytes_length_lt (bs : List Byte) {len : Nat} (h : 0 < len) :
    ((BusReply.busError bs).bytes len).length < len := by
  simp [BusReply.bytes]
  omega

/-- A read that fails or comes short has received fewer bytes than it asked for; any other has received them all. -/
theorem BusReply.bytes_length_eq_or_lt (len : Nat) (r : BusReply) :
    (r.bytes len).length = len ∨ (r.bytes len).length < len := by
  have := r.bytes_length_le len
  omega

@[simp] theorem System.note_scp (y : System) (e : HostEvent) : (y.note e).scp = y.scp := rfl
@[simp] theorem System.note_prog (y : System) (e : HostEvent) : (y.note e).prog = y.prog := rfl
@[simp] theorem System.note_pos (y : System) (e : HostEvent) : (y.note e).pos = y.pos := rfl
@[simp] theorem System.note_todo (y : System) (e : HostEvent) : (y.note e).todo = y.todo := rfl
@[simp] theorem System.note_vars (y : System) (e : HostEvent) : (y.note e).vars = y.vars := rfl
@[simp] theorem System.note_bufs (y : System) (e : HostEvent) : (y.note e).bufs = y.bufs := rfl
@[simp] theorem System.note_replies (y : System) (e : HostEvent) : (y.note e).replies = y.replies := rfl
@[simp] theorem System.note_resets (y : System) (e : HostEvent) : (y.note e).resets = y.resets := rfl
@[simp] theorem System.note_clock (y : System) (e : HostEvent) : (y.note e).clock = y.clock := rfl
@[simp] theorem System.note_log (y : System) (e : HostEvent) : (y.note e).log = e :: y.log := rfl

@[simp] theorem System.setBuf_scp (y : System) (n : Nat) (addr : Addr) (bs : List Byte) : (y.setBuf n addr bs).scp = y.scp := rfl
@[simp] theorem System.setBuf_prog (y : System) (n : Nat) (addr : Addr) (bs : List Byte) : (y.setBuf n addr bs).prog = y.prog := rfl
@[simp] theorem System.setBuf_pos (y : System) (n : Nat) (addr : Addr) (bs : List Byte) : (y.setBuf n addr bs).pos = y.pos := rfl
@[simp] theorem System.setBuf_todo (y : System) (n : Nat) (addr : Addr) (bs : List Byte) : (y.setBuf n addr bs).todo = y.todo := rfl
@[simp] theorem System.setBuf_log (y : System) (n : Nat) (addr : Addr) (bs : List Byte) : (y.setBuf n addr bs).log = y.log := rfl
@[simp] theorem System.setBuf_clock (y : System) (n : Nat) (addr : Addr) (bs : List Byte) : (y.setBuf n addr bs).clock = y.clock := rfl
@[simp] theorem System.setBuf_resets (y : System) (n : Nat) (addr : Addr) (bs : List Byte) : (y.setBuf n addr bs).resets = y.resets := rfl

/-- A buffer just read holds its bytes. -/
@[simp] theorem System.setBuf_buf (y : System) (n : Nat) (addr : Addr) (bs : List Byte) : (y.setBuf n addr bs).buf n = bs := by
  simp [System.setBuf, System.buf]

/-- A read into one buffer leaves another. -/
theorem System.setBuf_buf_ne (y : System) {n m : Nat} (addr : Addr) (bs : List Byte) (h : n ≠ m) :
    (y.setBuf n addr bs).buf m = y.buf m := by
  simp [System.setBuf, System.buf, h]

/-- The platform changes the block, its own list and the log at most. -/
theorem System.platform_eq (y : System) :
    y.platform = { y with scp := y.platform.scp, resets := y.platform.resets, log := y.platform.log } := by
  unfold System.platform
  split <;> rfl

@[simp] theorem System.platform_prog (y : System) : y.platform.prog = y.prog := by rw [y.platform_eq]
@[simp] theorem System.platform_pos (y : System) : y.platform.pos = y.pos := by rw [y.platform_eq]
@[simp] theorem System.platform_todo (y : System) : y.platform.todo = y.todo := by rw [y.platform_eq]
@[simp] theorem System.platform_vars (y : System) : y.platform.vars = y.vars := by rw [y.platform_eq]
@[simp] theorem System.platform_bufs (y : System) : y.platform.bufs = y.bufs := by rw [y.platform_eq]
@[simp] theorem System.platform_replies (y : System) : y.platform.replies = y.replies := by rw [y.platform_eq]
@[simp] theorem System.platform_clock (y : System) : y.platform.clock = y.clock := by rw [y.platform_eq]

/-- With no pulse to come the platform does nothing. -/
theorem System.platform_of_nil (h : y.resets = []) : y.platform = y := by simp [System.platform, h]

/-- The platform's turn leaves the block and the log, or resets the block and tells the host so. -/
theorem System.platform_cases (y : System) :
    (y.platform.scp = y.scp ∧ y.platform.log = y.log) ∨
      (y.platform.scp = y.scp.platformReset ∧ y.platform.log = .reset :: y.log) := by
  unfold System.platform
  split
  · exact .inl ⟨rfl, rfl⟩
  · exact .inr ⟨rfl, rfl⟩
  · exact .inl ⟨rfl, rfl⟩

/-- A pulse of the host layer is the block's step over a reset event. -/
theorem step_reset (s : State) : step (s.setPort (.reset :: s.port)) = .next s.platformReset := rfl

/-- An access is one step of the block, noted. -/
theorem System.access_ok {e : PortEvent} (h : y.access e = .ok z) :
    ∃ s, Machine.step (y.scp.setPort (e :: y.scp.port)) = .next s ∧ z = ({ y with scp := s }).note (.access e s.err) := by
  unfold System.access at h
  split at h
  · rename_i s hs
    exact ⟨s, hs, (Except.ok.inj h).symm⟩
  · cases h
  · cases h

/-- A GOTO goes to the first statement with its label and changes nothing else. -/
theorem System.jump_ok {label : Nat} (h : y.jump label = .ok z) :
    ∃ k, (y.prog.findIdx? fun st => st == .label label) = some k ∧ z = { y with pos := k, todo := [] } := by
  unfold System.jump at h
  split at h
  · rename_i k hk
    exact ⟨k, hk, (Except.ok.inj h).symm⟩
  · cases h

/-- Taking an error goes on or goes to a label. -/
theorem System.follow_ok {why : HostStop} {course : Course} (h : y.follow why course = .ok z) :
    (course = .goOn ∧ z = y) ∨ ∃ label, course = .goto label ∧ y.jump label = .ok z := by
  cases course with
  | stop => cases h
  | goOn => exact .inl ⟨rfl, (Except.ok.inj h).symm⟩
  | goto label => exact .inr ⟨label, rfl, h⟩

@[simp] theorem System.startBus_scp (y : System) (c : BusCall) (dst : Nat) (course : Course) :
    (y.startBus c dst course).scp = y.scp := rfl
@[simp] theorem System.startBus_prog (y : System) (c : BusCall) (dst : Nat) (course : Course) :
    (y.startBus c dst course).prog = y.prog := rfl
@[simp] theorem System.startBus_pos (y : System) (c : BusCall) (dst : Nat) (course : Course) :
    (y.startBus c dst course).pos = y.pos := rfl
@[simp] theorem System.startBus_todo (y : System) (c : BusCall) (dst : Nat) (course : Course) :
    (y.startBus c dst course).todo = .reply c dst course :: y.todo := rfl
@[simp] theorem System.startBus_bufs (y : System) (c : BusCall) (dst : Nat) (course : Course) :
    (y.startBus c dst course).bufs = y.bufs := rfl
@[simp] theorem System.startBus_clock (y : System) (c : BusCall) (dst : Nat) (course : Course) :
    (y.startBus c dst course).clock = y.clock := rfl
@[simp] theorem System.startBus_log (y : System) (c : BusCall) (dst : Nat) (course : Course) :
    (y.startBus c dst course).log = .busStart y.clock c :: y.log := rfl

/-- What the end of a read can do. -/
theorem System.endBus_read_ok {addr : Addr} {reg : Byte} {len dst : Nat} {course : Course}
    (h : y.endBus (.read addr reg len) dst course = .ok z) :
    ∃ r rest, y.replies = r :: rest ∧
      ((∃ bs, r = .data bs ∧
          z = (({ y with replies := rest }).note (.busEnd y.clock (.read addr reg len) r)).setBuf dst addr (r.bytes len)) ∨
        ∃ bs, r = .busError bs ∧
          ((({ y with replies := rest }).note (.busEnd y.clock (.read addr reg len) r)).setBuf dst addr (r.bytes len)).follow
            .busError course = .ok z) := by
  unfold System.endBus at h
  cases hr : y.replies with
  | nil => rw [hr] at h; cases h
  | cons r rest =>
    rw [hr] at h
    cases r with
    | data bs => exact ⟨_, _, rfl, .inl ⟨bs, rfl, (Except.ok.inj h).symm⟩⟩
    | accepted => cases h
    | busError bs => exact ⟨_, _, rfl, .inr ⟨bs, rfl, h⟩⟩
    | rejected => cases h

/-- What the end of a write can do. -/
theorem System.endBus_write_ok {addr : Addr} {reg : Byte} {bytes : List Byte} {dst : Nat} {course : Course}
    (h : y.endBus (.write addr reg bytes) dst course = .ok z) :
    ∃ r rest, y.replies = r :: rest ∧
      ((r = .accepted ∧ z = ({ y with replies := rest }).note (.busEnd y.clock (.write addr reg bytes) r)) ∨
        r ≠ .accepted ∧
          ∃ why, (({ y with replies := rest }).note (.busEnd y.clock (.write addr reg bytes) r)).follow why course =
            .ok z) := by
  unfold System.endBus at h
  cases hr : y.replies with
  | nil => rw [hr] at h; cases h
  | cons r rest =>
    rw [hr] at h
    cases r with
    | data bs => cases h
    | accepted => exact ⟨_, _, rfl, .inl ⟨rfl, (Except.ok.inj h).symm⟩⟩
    | busError bs => exact ⟨_, _, rfl, .inr ⟨by simp, _, h⟩⟩
    | rejected => exact ⟨_, _, rfl, .inr ⟨by simp, _, h⟩⟩

/-- Every event of a longer log is right if the latest is and those before it are. -/
@[simp] theorem everyEvent_cons (right : HostEvent → List HostEvent → Bool) (e : HostEvent) (before : List HostEvent) :
    everyEvent right (e :: before) = (right e before && everyEvent right before) := rfl

@[simp] theorem everyEvent_nil (right : HostEvent → List HostEvent → Bool) : everyEvent right [] = true := rfl

/-- A fetch that has just begun has read nothing. -/
@[simp] theorem fetchReads_fetch (inp : Input) (before : List HostEvent) : fetchReads inp (.fetch inp :: before) = [] := by
  simp [fetchReads]

/-- An event that reads nothing of the input and begins no fetch leaves the reads of the fetch under way. -/
theorem fetchReads_of_none {inp : Input} {e : HostEvent} (before : List HostEvent) (h : e ≠ .fetch inp)
    (hf : e.fetched inp = none) : fetchReads inp (e :: before) = fetchReads inp before := by
  simp [fetchReads, h, hf]

/-- A read of registers not yet tried joins the fetch under way. -/
theorem fetchReads_of_new {inp : Input} {e : HostEvent} {p : BusCall × Nat} (before : List HostEvent)
    (h : e ≠ .fetch inp) (hf : e.fetched inp = some p)
    (hn : ((fetchReads inp before).any fun q => p.1.overlaps inp q.1) = false) :
    fetchReads inp (e :: before) = p :: fetchReads inp before := by
  simp [fetchReads, h, hf, hn]

/-- A read of a register already tried begins a new fetch. -/
theorem fetchReads_of_again {inp : Input} {e : HostEvent} {p : BusCall × Nat} (before : List HostEvent)
    (h : e ≠ .fetch inp) (hf : e.fetched inp = some p)
    (hn : ((fetchReads inp before).any fun q => p.1.overlaps inp q.1) = true) :
    fetchReads inp (e :: before) = [p] := by
  simp [fetchReads, h, hf, hn]

/-- A fetch that has just begun has received nothing. -/
@[simp] theorem bytesReceived_fetch (inp : Input) (before : List HostEvent) :
    bytesReceived inp (.fetch inp :: before) = 0 := by
  simp [bytesReceived]

/-- A whole fetch has not failed, whatever failed before it. -/
theorem not_fetchFailed_of_whole {inp : Input} {log : List HostEvent} (h : wholeFetch inp log = true) :
    fetchFailed inp log = false := by
  cases log <;> simp [fetchFailed, h]

/-- An event that is no failed read of the input arms no duty. -/
theorem not_fetchFailed_cons {inp : Input} {e : HostEvent} {before : List HostEvent} (he : e.short inp = false)
    (h : fetchFailed inp before = false) : fetchFailed inp (e :: before) = false := by
  simp [fetchFailed, he, h]

/-- What has failed has a short read in the log. -/
theorem any_short_of_fetchFailed {inp : Input} {log : List HostEvent} (h : fetchFailed inp log = true) :
    log.any (HostEvent.short inp) = true := by
  induction log with
  | nil => simp [fetchFailed] at h
  | cons e before ih =>
    simp only [fetchFailed, Bool.and_eq_true, Bool.or_eq_true] at h
    rcases h.2 with he | hb
    · simp [he]
    · simp [ih hb]

/-- The registers of an input are not none, so a fetch that has read nothing is not whole. -/
@[simp] theorem wholeFetch_fetch (inp : Input) (before : List HostEvent) : wholeFetch inp (.fetch inp :: before) = false := by
  cases inp with
  | calibration slot => simp [wholeFetch, Input.registers]; exact ⟨0, by omega⟩
  | sample dev => cases dev <;> simp [wholeFetch, Input.registers] <;> exact ⟨0, by omega⟩

/-- A length just written is the one reported. -/
@[simp] theorem lengthReported_write (inp : Input) (v : Word) (err : ErrCode) (before : List HostEvent) :
    lengthReported inp (.access (writeTo .ibufLen v) err :: before) = some (v.toNat % 64) := by
  simp [lengthReported, writeTo]

/-- A fetch just begun has had no length reported. -/
@[simp] theorem lengthReported_fetch (inp : Input) (before : List HostEvent) :
    lengthReported inp (.fetch inp :: before) = none := by
  simp [lengthReported]

/-- A read of the input just ended has had no length reported. -/
theorem lengthReported_of_reads {inp : Input} {call : BusCall} (time : Nat) (reply : BusReply) (before : List HostEvent)
    (h : call.reads inp = true) : lengthReported inp (.busEnd time call reply :: before) = none := by
  simp [lengthReported, h]

/-- An access under a condition is the access or a jump. -/
theorem System.guarded_ok {c : Cond} {e : PortEvent} {label : Nat} (h : y.act (.guarded c e label) = .ok z) :
    (y.holds c = true ∧ y.access e = .ok z) ∨ (y.holds c = false ∧ y.jump label = .ok z) := by
  simp only [System.act] at h
  cases hc : y.holds c <;> simp [hc] at h <;> simp [h]

@[simp] theorem System.startFetch_scp (y : System) (inp : Input) : (y.startFetch inp).scp = y.scp := rfl
@[simp] theorem System.startFetch_prog (y : System) (inp : Input) : (y.startFetch inp).prog = y.prog := rfl
@[simp] theorem System.startFetch_pos (y : System) (inp : Input) : (y.startFetch inp).pos = y.pos := rfl
@[simp] theorem System.startFetch_todo (y : System) (inp : Input) : (y.startFetch inp).todo = y.todo := rfl
@[simp] theorem System.startFetch_clock (y : System) (inp : Input) : (y.startFetch inp).clock = y.clock := rfl
@[simp] theorem System.startFetch_log (y : System) (inp : Input) : (y.startFetch inp).log = .fetch inp :: y.log := rfl

/-- The host's turn runs its next act or takes up its next statement. -/
theorem System.host_ok (h : y.host = .ok z) :
    (∃ a rest, y.todo = a :: rest ∧ System.act { y with todo := rest } a = .ok z) ∨
      ∃ st acts, y.todo = [] ∧ y.prog[y.pos]? = some st ∧ y.expand st = .ok acts ∧
        z = { y with pos := y.pos + 1, todo := acts } := by
  unfold System.host at h
  split at h
  · rename_i a rest ht
    exact .inl ⟨a, rest, ht, h⟩
  · rename_i ht
    split at h
    · cases h
    · rename_i st hst
      split at h
      · rename_i acts ha
        exact .inr ⟨st, acts, ht, hst, ha, (Except.ok.inj h).symm⟩
      · cases h

/-- What holds at the start and is kept by every step holds after every run. -/
theorem System.run_induction {P : System → Prop} (hstep : ∀ a b : System, P a → a.step = .ok b → P b) :
    ∀ (k : Nat) (a : System), P a → P (System.run k a)
  | 0, _, h => h
  | k + 1, a, h => by
    unfold System.run
    split
    · rename_i b hb
      exact run_induction hstep k b (hstep a b h hb)
    · exact h

end Sys2Proof.Machine
end

