-- ==== Sys2Proof/Tests/Slice0.lean ====
section
/-! SUPPORT. Tests and witnesses. Expected values come from spec/95_test_vectors.md (the vector is named in each docstring) or from
the encodings of 30_encoding.md, never from the model. Witnesses show that the hypotheses of each statement can be met. -/

namespace Sys2Proof.Tests

open Sys2Proof Sys2Proof.Machine

/-! ## Helpers -/

/-- Reset, with IBUF loaded as LDBUF of `bs` loads it (30_encoding.md R79). -/
def sample (bs : List Byte) : State :=
  { State.reset with ibuf := Vector.ofFn fun i : Fin 24 => bs.getD i.val 0#8, ibufLen := BitVec.ofNat 6 bs.length }

/-- The datasheet's calibration block DS (95_test_vectors.md). -/
def dsBytes : List Byte :=
  [0x70#8, 0x6B#8, 0x43#8, 0x67#8, 0x18#8, 0xFC#8, 0x7D#8, 0x8E#8, 0x43#8, 0xD6#8, 0xD0#8, 0x0B#8] ++
    [0x27#8, 0x0B#8, 0x8C#8, 0x00#8, 0xF9#8, 0xFF#8, 0x8C#8, 0x3C#8, 0xF8#8, 0xC6#8, 0x70#8, 0x17#8]

/-- The DS coefficients in slot 0 (95_test_vectors.md, CAL-1). -/
def dsSlot : CalSlot :=
  ⟨true, #v[0x6B70#16, 0x6743#16, 0xFC18#16, 0x8E7D#16, 0xD643#16, 0x0BD0#16, 0x0B27#16, 0x008C#16, 0xFFF9#16, 0x3C8C#16,
    0xC6F8#16, 0x1770#16]⟩

/-- `s` with a calibration slot filled. -/
def withSlot (s : State) (slot : Fin 4) (c : CalSlot) : State := { s with cal := s.cal.set slot c }

/-- `s` with `n` calibration slots. -/
def withSlots (s : State) (n : Fin 4) : State := { s with cfg := ⟨n, s.cfg.sqGroup⟩ }

/-- What a next state holds, none where there is none. -/
def view {α : Type} (a : Answer) (f : State → α) : Option α :=
  match a with
  | .next t => some (f t)
  | .fault _ => none
  | .refused _ => none

/-- What a decoder's answer holds. -/
def decoded (w : Word) (n : Fin 4) : Option Instr :=
  match decode ⟨n, .squareFirst⟩ w with
  | .ok i => some i
  | .error _ => none

/-- The call of a bus transaction that has ended. -/
def busCall : HostEvent → Option BusCall
  | .busEnd _ call _ => some call
  | .busStart _ _ => none
  | .access _ _ => none
  | .reset => none
  | .initialise _ => none
  | .initialised _ _ => none
  | .fetch _ => none
  | .powerCycle _ => none

/-- A command in the log. -/
def ran (i : Instr) (err : ErrCode) : HostEvent := .access (cmdWrite (encode i)) err

/-- The reference CRC8 of 93_implementation_defined.md G4 (polynomial 0x31, initial value 0xFF), one byte in. -/
def crcByte (crc b : Byte) : Byte :=
  (List.range 8).foldl (fun c _ => if c.msb then (c <<< 1) ^^^ 0x31#8 else c <<< 1) (crc ^^^ b)

/-- The reference CRC8 of two bytes. -/
def crcRef (a b : Byte) : Byte := crcByte (crcByte 0xFF#8 a) b

/-! ## WellFormed: an ill-formed command for each check -/

theorem test_wf_refuses_decBe16_past_ibuf : (Instr.decBe16 23).wf Params.default = false := by decide
theorem test_wf_refuses_decLe16_past_ibuf : (Instr.decLe16 23).wf Params.default = false := by decide
theorem test_wf_refuses_dec20_past_ibuf : (Instr.dec20 22).wf Params.default = false := by decide
theorem test_wf_refuses_calLoad_absent_slot : (Instr.calLoad 1).wf Params.default = false := by decide
theorem test_wf_refuses_calRelease_absent_slot : (Instr.calRelease 2).wf ⟨1, .squareFirst⟩ = false := by decide
theorem test_wf_refuses_compPt_absent_slot : (Instr.compPt 3).wf ⟨2, .squareFirst⟩ = false := by decide

/-! ## Decoding: words written out bit by bit from 30_encoding.md R71, R72, R74 -/

/-- Bits [31:8] zero, OPC 0x00. -/
theorem test_decode_nop : decoded 0b00000000000000000000000000000000#32 0 = some .nop := by decide
/-- Bits [31:13] zero, OFF = 22, OPC 0x01. -/
theorem test_decode_decBe16 : decoded 0b00000000000000000001011000000001#32 0 = some (.decBe16 22) := by decide
/-- Bits [31:13] zero, OFF = 5, OPC 0x02. -/
theorem test_decode_decLe16 : decoded 0b00000000000000000000010100000010#32 0 = some (.decLe16 5) := by decide
/-- Bits [31:13] zero, OFF = 21, OPC 0x03 (ENC-20). -/
theorem test_decode_dec20 : decoded 0b00000000000000000001010100000011#32 0 = some (.dec20 21) := by decide
/-- Bits [31:8] zero, OPC 0x04. -/
theorem test_decode_toS16 : decoded 0b00000000000000000000000000000100#32 0 = some .toS16 := by decide
/-- SLOT = 3, OPC 0x10, four slots. -/
theorem test_decode_calLoad : decoded 0b00000000000000110000000000010000#32 3 = some (.calLoad 3) := by decide
/-- SLOT = 2, OPC 0x11, four slots. -/
theorem test_decode_calRelease : decoded 0b00000000000000100000000000010001#32 3 = some (.calRelease 2) := by decide
/-- SLOT = 1, OPC 0x20, two slots (ENC-25). -/
theorem test_decode_compPt : decoded 0b00000000000000010000000000100000#32 1 = some (.compPt 1) := by decide
/-- Bits [31:8] zero, OPC 0x21. -/
theorem test_decode_compRh : decoded 0b00000000000000000000000000100001#32 0 = some .compRh := by decide
/-- Bits [31:8] zero, OPC 0x22. -/
theorem test_decode_compLux : decoded 0b00000000000000000000000000100010#32 0 = some .compLux := by decide
/-- Bits [31:8] zero, OPC 0x23. -/
theorem test_decode_crcRh : decoded 0b00000000000000000000000000100011#32 0 = some .crcRh := by decide

/-- ENC-8, ENC-14 to ENC-19 and ENC-21 to ENC-24: no command. -/
theorem test_decode_refuses_illegal_words :
    [0x00010010#32, 0x00000005#32, 0x0000000F#32, 0x00000012#32, 0x00000024#32, 0x000000FF#32, 0x00000121#32, 0x00000100#32,
      0x00001701#32, 0x00001603#32, 0x00002001#32, 0x00100010#32, 0x01000010#32, 0x80000000#32].all
      (fun w => decoded w 0 == none) = true := by decide

/-- No two rows of spec/opcode_table.json overlap. -/
theorem test_opcode_rows_do_not_overlap :
    opcodeTable.Pairwise (fun r q => r.pattern &&& q.mask &&& r.mask ≠ q.pattern &&& r.mask) := by decide

/-- The host's view of a row: COMP_PT's pattern, 32 bits. -/
theorem test_decodeTableWord : decodeTableWord 32 0x20 = some (.compPt 0) := by decide

/-- ENC-18: from reset the illegal word 0x00001701 leaves STATUS = 0x00000015. -/
theorem test_illegal_word_sets_status : view (step (State.reset.withFetchWord 32 0x1701)) State.status = some 0x15#32 := by
  decide

/-! ## One step per command -/

/-- ST-5: NOP sets ERR to 0 and leaves ERRS. -/
theorem test_nop : view (exec .nop (State.reset.setErr .incompleteSample)) (fun t => (t.err, t.errs)) = some (.ok, true) := by
  decide

/-- COD-1. -/
theorem test_decBe16 :
    view (exec (.decBe16 3) (sample [0x00#8, 0x00#8, 0x00#8, 0x12#8, 0x34#8, 0x00#8])) (·.ires) = some 0x1234#32 := by decide
/-- COD-25: one byte short leaves IRES and STATUS = 0x12. -/
theorem test_decBe16_short :
    view (exec (.decBe16 0) ((sample [0xFF#8]).setIres 0xABCD#32)) (fun t => (t.ires, t.status)) =
      some (0xABCD#32, 0x12#32) := by decide

/-- COD-2. -/
theorem test_decLe16 : view (exec (.decLe16 0) (sample [0x70#8, 0x6B#8])) (·.ires) = some 0x6B70#32 := by decide
/-- Program 4: the T3 word of DS at offset 4. -/
theorem test_decLe16_at_four : view (exec (.decLe16 4) (sample dsBytes)) (·.ires) = some 0xFC18#32 := by decide

/-- COD-12. -/
theorem test_dec20 : view (exec (.dec20 0) (sample [0x12#8, 0x34#8, 0x5F#8])) (·.ires) = some 0x12345#32 := by decide
/-- COD-11. -/
theorem test_dec20_at_three :
    view (exec (.dec20 3) (sample [0x7E#8, 0xED#8, 0x00#8, 0x65#8, 0x5A#8, 0xC0#8])) (·.ires) = some 0x655AC#32 := by decide

/-- COD-18. -/
theorem test_toS16 : view (exec .toS16 (State.reset.setIres 0x0007EED0#32)) (·.ires) = some 0xFFFFEED0#32 := by decide
/-- COD-13. -/
theorem test_toS16_largest : view (exec .toS16 (State.reset.setIres 0x00007FFF#32)) (·.ires) = some 0x00007FFF#32 := by decide

/-- CAL-1: the slot and STATUS = 0x00010000. -/
theorem test_calLoad :
    view (exec (.calLoad 0) (sample dsBytes)) (fun t => (t.cal[0], t.status)) = some (dsSlot, 0x00010000#32) := by decide
/-- CAL-3: the lock is checked before the length. -/
theorem test_calLoad_locked :
    view (exec (.calLoad 0) (withSlot (sample (List.replicate 5 0x11#8)) 0 dsSlot)) (fun t => (t.err, t.cal[0])) =
      some (.calLocked, dsSlot) := by decide

/-- CAL-8: STATUS = 0. -/
theorem test_calRelease :
    view (exec (.calRelease 0) (withSlot State.reset 0 dsSlot)) (fun t => (t.cal[0], t.status)) =
      some (CalSlot.empty, 0#32) := by decide
/-- CAL-9: an invalid slot is no error. -/
theorem test_calRelease_invalid : view (exec (.calRelease 0) State.reset) (·.err) = some .ok := by decide

/-- PT-1. -/
theorem test_compPt :
    view (exec (.compPt 0) (withSlot (sample [0x7E#8, 0xED#8, 0x00#8, 0x65#8, 0x5A#8, 0xC0#8]) 0 dsSlot))
        (fun t => (t.res[0], t.res[1], t.res[8])) =
      some (0x4039151D460F8000#64, 0x408F7442E7504A97#64, 0x40FF5A6497936000#64) := by decide +kernel
/-- PT-4: a negative pressure is not clamped. -/
theorem test_compPt_negative :
    view (exec (.compPt 0) (withSlot (sample (List.replicate 6 0xFF#8)) 0 dsSlot)) (fun t => (t.res[1], t.resValid)) =
      some (0xC057DA58153943D6#64, 0x103#9) := by decide +kernel

/-- RH-4. -/
theorem test_compRh :
    view (exec .compRh (sample [0x00#8, 0x01#8, 0x77#8, 0x00#8, 0x01#8, 0x77#8])) (fun t => (t.res[0], t.res[2])) =
      some (0xC0467FA87FA87FA8#64, 0x3F59001900190019#64) := by decide +kernel
/-- RH-E2: eight bytes are not six. -/
theorem test_compRh_length : view (exec .compRh (sample (List.replicate 8 0x00#8))) (·.status) = some 0x12#32 := by decide

/-- LUX-3. -/
theorem test_compLux :
    view (exec .compLux (sample [0xE8#8, 0x03#8, 0x64#8, 0x00#8, 0x34#8, 0x12#8, 0xCD#8, 0xAB#8]))
        (fun t => (t.res[3], t.res[6], t.res[7])) =
      some (0x4098279DB22D0E57#64, 0x40B2340000000000#64, 0x40E579A000000000#64) := by decide +kernel
/-- LUX-9: -0.0 is clamped to +0.0. -/
theorem test_compLux_negative_zero :
    view (exec .compLux (((sample (List.replicate 8 0x00#8)).setLuxKr 0xBFF0000000000000#64).setLuxKc 0xBFF0000000000000#64))
        (fun t => (t.res[3], t.err)) =
      some (0#64, .ok) := by decide +kernel

/-- CRC-2, with the reference CRC8: a mismatch is no error. -/
theorem test_crcRh :
    view (crcRhWith crcRef (sample [0xBE#8, 0xEF#8, 0x92#8, 0xBE#8, 0xEF#8, 0x00#8])) State.status = some 0x60#32 := by
  decide +kernel
/-- CRC-7. -/
theorem test_crcRh_short :
    view (exec .crcRh ((sample (List.replicate 4 0xBE#8)).setCrc true true true)) State.status = some 0x12#32 := by decide

/-! ## The port -/

/-- ST-1. -/
theorem test_reset_reads :
    [0x000#12, 0x008#12, 0x00C#12, 0x028#12, 0x02C#12, 0x030#12, 0x034#12, 0x038#12, 0x03C#12].map State.reset.readAt =
      [0x53435007#32, 0#32, 0#32, 0#32, 0#32, 0xBC947065#32, 0xBFD4C73A#32, 0xE6AFCCE2#32, 0x3FF94100#32] := by decide

/-- ST-7. -/
theorem test_write_ibuf_word :
    ((State.reset.writeAt 0x014#12 0x44332211#32).ibuf.toList.drop 4).take 4 = [0x11#8, 0x22#8, 0x33#8, 0x44#8] := by decide

/-- ST-3 and ST-4. -/
theorem test_write_status :
    let s := State.reset.setErr .incompleteSample
    s.writeAt 0x008#12 0xFFFFFFEF#32 = s ∧ s.writeAt 0x008#12 0x00000010#32 = { s with errs := false } := by decide

/-- ST-6. -/
theorem test_write_ibuf_len : (State.reset.writeAt 0x00C#12 0xFFFFFFFF#32).readAt 0x00C#12 = 0x3F#32 := by decide

/-- CAL-10: slot 1 at 0x140, slot 2 absent at 0x180. -/
theorem test_calibration_reads :
    let s := withSlot (withSlots State.reset 1) 1 dsSlot
    (s.readAt 0x140#12, s.readAt 0x148#12, s.readAt 0x100#12, s.readAt 0x180#12) =
      (0x6B70#32, 0xFFFFFC18#32, 0#32, 0#32) := by decide

/-- 95_test_vectors.md, Program 4: the words of LDBUF 7E ED 00 65 5A C0. -/
theorem test_ldbuf_accesses :
    ldbufAccesses [0x7E#8, 0xED#8, 0x00#8, 0x65#8, 0x5A#8, 0xC0#8] =
      [.write 0x010#12 0x6500ED7E#32, .write 0x014#12 0x0000C05A#32, .write 0x00C#12 6#32] := by decide

/-- SETK keeps the duty of R221; ST-9's lone LUX_KR_HI before COMP_LUX breaks it. -/
theorem test_lux_duty :
    luxDuty Params.default Halves.none (setkAccesses 0#64 0#64 ++ [cmdWrite (encode .compLux)]) = true ∧
      luxDuty Params.default Halves.none [writeTo .luxKrHi 0x7FF80000#32, cmdWrite (encode .compLux)] = false := by decide

/-- R214's `LDBUF t[0], t[1], …`: single bytes of two bus reads, and a byte that a short read did not return is not counted. -/
theorem test_ldbuf_single_bytes :
    let y := ((System.start State.reset [] [] []).setBuf 0 (.device (.pt 0)) [0x11#8, 0x22#8]).setBuf 1 (.device (.pt 0))
      [0x44#8, 0x55#8]
    y.bytes [.one (.byte 0 1), .buf 1, .lit [0x66#8]] = [0x22#8, 0x44#8, 0x55#8, 0x66#8] ∧
      y.bytes [.one (.byte 0 0), .one (.byte 0 1), .one (.byte 0 2), .one (.byte 1 0)] = [0x11#8, 0x22#8, 0x44#8] := by decide

/-- R64: a new fetch drops the bytes held of its device and of no other. -/
theorem test_fetch_drops_bytes :
    let y := ((System.start State.reset [] [] []).setBuf 0 (.device .lux) [0x11#8]).setBuf 1 (.device (.pt 0)) [0x22#8]
    ((y.startFetch (.sample .lux)).buf 0, (y.startFetch (.sample .lux)).buf 1) = ([], [0x22#8]) := by decide

/-- Program 1 of 95_test_vectors.md, its initialisation: the control write comes last, the slot is loaded, and there is a
handle. -/
theorem test_initPt :
    let y := System.run 50 (System.start State.reset (initPt 0 0 1) [.data dsBytes, .accepted] [])
    y.log.filterMap busCall =
        [.write (.device (.pt 0)) 0xF4#8 [0x27#8], .read (.device (.pt 0)) 0x88#8 24] ∧
      y.scp.status = 0x00010000#32 ∧ handleIn y.log (.pt 0) = true := by decide

/-- R213 and R63: after a calibration read of 4 bytes CAL_LOAD raises INCOMPLETE_CAL, there is no handle, the control register is
not written and no sample is read. -/
theorem test_failed_initialisation :
    let y := System.run 60 (System.start State.reset (initPt 0 0 1 ++ readPt 0 true 2) [.data (dsBytes.take 4)] [])
    (handleIn y.log (.pt 0), y.controlWritten 0, y.scp.status, y.replies.length) = (false, false, 0x11#32, 0) := by decide

/-- R173: a rejected write fails one device, and the host goes on with the humidity device. -/
theorem test_rejected_write_fails_one_device :
    let y := System.run 60 (System.start State.reset (initLux 0 1 ++ initRh ++ readLux true 2 ++ readRh false true 3)
      [.rejected, .accepted, .data [0x66#8, 0x66#8, 0x93#8, 0x80#8, 0x00#8, 0xA2#8]] [])
    (handleIn y.log .lux, handleIn y.log .rh, y.scp.resValid) = (false, true, validRh) := by decide +kernel

/-- R173, both courses after a BusError with four bytes received: IBUF_LEN 4 and INCOMPLETE_SAMPLE, or no command. -/
theorem test_busError_courses :
    let run (report : Bool) := System.run 60 (System.start State.reset (initRh ++ readRh false report 0)
      [.accepted, .busError [0x66#8, 0x66#8, 0x93#8, 0x80#8]] [])
    ((run true).scp.ibufLen, (run true).scp.status) = (4#6, 0x12#32) ∧
      ((run false).scp.ibufLen, (run false).scp.status) = (0#6, 0#32) := by decide

/-- R213 and R34: of two pressure devices the one whose initialisation fails gives no command, the other does. -/
theorem test_handles_are_per_instance :
    let y := System.run 100 (System.start (withSlots State.reset 1)
      (initPt 0 0 1 ++ initPt 1 2 3 ++ readPt 0 true 4 ++ readPt 1 true 5)
      [.data (dsBytes.take 4), .data dsBytes, .accepted, .data [0x7E#8, 0xED#8, 0x00#8], .data [0x65#8, 0x5A#8, 0xC0#8]] [])
    (handleIn y.log (.pt 0), handleIn y.log (.pt 1), y.scp.resValid) = (false, true, validPt) ∧
      y.log.any (fun e => e == ran (.compPt 0) .notCalibrated) = false := by decide +kernel

/-- R220 and R224: a trigger read at 14 ms breaks the wait, at 15 ms keeps it; a new trigger at 14 ms cuts a measurement short,
unless the device has been power-cycled. -/
theorem test_waits_can_be_broken :
    let trigger : List HostEvent := [.busEnd 0 rhTrigger .accepted, .busStart 0 rhTrigger]
    let read (t : Nat) : HostEvent := .busStart t (.read (.device .rh) 0x00#8 6)
    waitsKept (read 14 :: trigger) = false ∧ waitsKept (read 15 :: trigger) = true ∧
      measurementsComplete (.busStart 14 rhTrigger :: trigger) = false ∧
      measurementsComplete (.busStart 15 rhTrigger :: trigger) = true ∧
      measurementsComplete (.busStart 14 rhTrigger :: .powerCycle .rh :: trigger) = true := by decide

/-- R64: a transaction that begins while another is in flight, and a reply to a transaction that is not. -/
theorem test_serialisation_can_be_broken :
    let call (dev : Device) : BusCall := .read (.device dev) 0xFA#8 3
    let start (dev : Device) : HostEvent := .busStart 0 (call dev)
    let ends (dev : Device) : HostEvent := .busEnd 0 (call dev) (.data [])
    serialised [ends .lux, start .lux, ends .rh, start .rh] = true ∧
      serialised [ends .rh, ends .lux, start .lux, start .rh] = false ∧
      serialised [ends .lux, start .rh] = false := by decide

/-- R213 and R173: COMP_PT with no handle, with another instance's handle, with a handle noted after a rejected write or before the
sensor was power-cycled; after a ConfigurationError no CAL_RELEASE and no CRC_RH either, and one before the initialisation. -/
theorem test_contract_can_be_broken :
    let comp (slot : Fin 4) : HostEvent := ran (.compPt slot) .ok
    let inits (reply : BusReply) : List HostEvent :=
      [.initialised (.pt 0) .handle, .busEnd 0 (.write (.device (.pt 0)) 0xF4#8 [0x27#8]) reply, .initialise (.pt 0)]
    let failed (dev : Device) : List HostEvent := [.initialised dev .configurationError, .initialise dev]
    let cfg : Params := ⟨1, .squareFirst⟩
    contractKept cfg [comp 0] = false ∧ contractKept cfg (comp 0 :: inits .accepted) = true ∧
      contractKept cfg (comp 1 :: inits .accepted) = false ∧ contractKept cfg (comp 0 :: inits .rejected) = false ∧
      contractKept cfg (comp 0 :: .powerCycle (.pt 0) :: inits .accepted) = false ∧
      contractKept cfg (ran (.calRelease 0) .ok :: failed (.pt 0)) = false ∧
      contractKept cfg (ran (.calRelease 1) .ok :: failed (.pt 0)) = true ∧
      contractKept cfg (ran .crcRh .ok :: failed .rh) = false ∧ contractKept cfg [ran .crcRh .ok] = true := by decide

/-- R173 and R64 after a BusError with three of eight bytes: COMP_LUX with that length, with another, after the rest alone has been
read, with and without a fetch noted before it, after a fetch noted and nothing read, and after a whole new read. -/
theorem test_busError_duty_can_be_broken :
    let read (reg : Byte) (len : Nat) (r : BusReply) : HostEvent := .busEnd 0 (.read (.device .lux) reg len) r
    let bytes (n : Nat) : List Byte := List.replicate n 0x11#8
    let failed : List HostEvent := [read 0x94#8 8 (.busError (bytes 3)), .fetch (.sample .lux)]
    let rest : HostEvent := read 0x97#8 5 (.data (bytes 5))
    let comp (n : Nat) : List HostEvent := [ran .compLux .ok, .access (writeTo .ibufLen (BitVec.ofNat 32 n)) .ok]
    let kept (log : List HostEvent) : Bool := busErrorsReported Params.default log
    kept (comp 3 ++ failed) = true ∧ kept (comp 5 ++ failed) = false ∧ kept (comp 8 ++ failed) = false ∧
      kept (comp 8 ++ [rest] ++ failed) = false ∧ kept (comp 8 ++ [rest, .fetch (.sample .lux)] ++ failed) = false ∧
      kept (comp 8 ++ [.fetch (.sample .lux)] ++ failed) = false ∧
      kept (comp 8 ++ [read 0x94#8 8 (.data (bytes 8))] ++ failed) = true := by decide

/-- Program 2 of 95_test_vectors.md retries without a note: the second read counts by itself. By channels, a channel read again
needs the others again too. -/
theorem test_a_register_read_again_begins_a_fetch :
    let read (reg : Byte) (len : Nat) (r : BusReply) : HostEvent := .busEnd 0 (.read (.device .lux) reg len) r
    let bytes (n : Nat) : List Byte := List.replicate n 0x11#8
    let short : HostEvent := read 0x94#8 8 (.data (bytes 4))
    let channel (reg : Byte) : HostEvent := read reg 2 (.data (bytes 2))
    let failed : HostEvent := read 0x96#8 2 (.busError [])
    bytesReceived (.sample .lux) [short, short] = 4 ∧
      fetchFailed (.sample .lux) [channel 0x9A#8, channel 0x98#8, channel 0x96#8, failed, channel 0x94#8] = true ∧
      fetchFailed (.sample .lux) [channel 0x9A#8, channel 0x98#8, channel 0x96#8, channel 0x94#8, failed, channel 0x94#8] =
        false := by decide

/-- R173: a length written before the BusError, and before a reset, reports nothing; one written after it does, with a reset after
that too. -/
theorem test_length_is_reported_after_the_busError :
    let len : HostEvent := .access (writeTo .ibufLen 3#32) .ok
    let failed : HostEvent := .busEnd 0 (.read (.device .lux) 0x94#8 8) (.busError [0x11#8, 0x22#8, 0x33#8])
    let comp : HostEvent := ran .compLux .incompleteSample
    let kept (log : List HostEvent) : Bool := busErrorsReported Params.default log
    kept [comp, failed, .reset, len] = false ∧ kept [comp, failed, len] = false ∧ kept [comp, len, failed, .reset] = true ∧
      kept [comp, .reset, len, failed] = true := by decide

/-- R173: a failure that a whole read has mended stays mended when the next fetch has begun, until a failure of its own. -/
theorem test_a_mended_failure_stays_mended :
    let read (reg : Byte) (len n : Nat) : HostEvent := .busEnd 0 (.read (.device .lux) reg len) (.data (List.replicate n 0x11#8))
    let mended : List HostEvent := [read 0x94#8 8 8, read 0x94#8 8 3]
    fetchFailed (.sample .lux) mended = false ∧ fetchFailed (.sample .lux) (.fetch (.sample .lux) :: mended) = false ∧
      fetchFailed (.sample .lux) (read 0x96#8 2 2 :: read 0x94#8 2 2 :: mended) = false ∧
      fetchFailed (.sample .lux) (read 0x96#8 2 1 :: read 0x94#8 2 2 :: mended) = true := by decide

/-- R114 and R211: the control register, with any value, and the results need a CAL_LOAD that has succeeded; the calibration block
does not. -/
theorem test_ordering_duty_can_be_broken :
    let control : HostEvent := .busStart 0 (.write (.device (.pt 0)) 0xF4#8 [0x00#8])
    let result : HostEvent := .busStart 0 (.read (.device (.pt 0)) 0xF7#8 3)
    let kept (log : List HostEvent) : Bool := loadsFirst Params.default log
    kept [control] = false ∧ kept [result] = false ∧ kept [.busStart 0 (.read (.device (.pt 0)) 0x88#8 24)] = true ∧
      kept [result, control, ran (.calLoad 0) .ok] = true ∧
      kept [result, ran (.calLoad 0) .incompleteCal, .reset, ran (.calLoad 0) .ok] = false := by decide

/-- R211 and R202: after a reload that fails no result is read, and the handle is lost. -/
theorem test_failed_reload :
    let y := System.run 120 (System.start State.reset (initPt 0 0 1 ++ reloadPt 0 2 3 ++ readPt 0 true 4)
      [.data dsBytes, .accepted, .data (dsBytes.take 4), .data [0x7E#8, 0xED#8, 0x00#8], .data [0x65#8, 0x5A#8, 0xC0#8]]
      (List.replicate 30 false ++ [true]))
    (handleIn y.log (.pt 0), y.replies.length, y.scp.status) = (false, 2, 0x11#32) := by decide +kernel

/-- R63 and R173: CAL_LOAD with 24 in IBUF_LEN after a calibration read of 10 bytes, and DEC_LE16 after it; in a new cycle only its
own bytes count. -/
theorem test_bytes_received_are_of_the_cycle :
    let read (dev : Device) (reg : Byte) (len : Nat) (r : BusReply) : HostEvent := .busEnd 0 (.read (.device dev) reg len) r
    let bytes (n : Nat) : List Byte := List.replicate n 0x11#8
    let len (n : Nat) : HostEvent := .access (writeTo .ibufLen (BitVec.ofNat 32 n)) .ok
    let short : List HostEvent := [read (.pt 0) 0x88#8 24 (.data (bytes 10))]
    let cycle : List HostEvent := [read (.pt 0) 0xF7#8 3 (.data (bytes 3)), read (.pt 0) 0xFA#8 3 (.data (bytes 3))]
    let next : List HostEvent := [read (.pt 0) 0xFA#8 3 (.busError (bytes 1))] ++ cycle
    let kept (log : List HostEvent) : Bool := busErrorsReported Params.default log
    kept (ran (.decLe16 4) .ok :: .fetch (.sample .rh) :: len 24 :: short) = false ∧
      kept (ran (.calLoad 0) .ok :: len 24 :: short) = false ∧
      kept (ran (.calLoad 0) .incompleteCal :: len 10 :: short) = true ∧
      kept (ran (.decLe16 4) .ok :: len 24 :: short) = false ∧ kept (ran (.decLe16 4) .ok :: len 10 :: short) = true ∧
      kept (ran (.compPt 0) .incompleteSample :: len 1 :: next) = true ∧
      kept (ran (.compPt 0) .incompleteSample :: len 4 :: next) = false := by decide

/-- R202: after a reset COMP_PT needs a CAL_LOAD that has succeeded, in the middle of a read too. -/
theorem test_reload_duty_can_be_broken :
    let comp : HostEvent := ran (.compPt 0) .ok
    let kept (log : List HostEvent) : Bool := slotsReloaded Params.default log
    kept [comp, .reset] = false ∧ kept [comp, ran (.calLoad 0) .ok, .reset] = true ∧
      kept [comp, ran (.calLoad 0) .incompleteCal, .reset] = false ∧
      kept [comp, .reset, .fetch (.sample (.pt 0)), ran (.calLoad 0) .ok] = false := by decide

/-- R202: a reset in the last host step before COMP_PT: it is not issued. -/
theorem test_reset_before_compPt :
    let y := System.run 3 (System.start State.reset [.cmd .nop, .cmdIf (.loaded 0) (.compPt 0) 0, .label 0] []
      [false, false, false, true])
    (System.run 4 y).log = [.reset, ran .nop .ok] := by decide

/-- R202: a reset between the initialisation and the read; the slot is loaded again, the sensor is not initialised again, and
COMP_PT succeeds. -/
theorem test_reload_after_reset :
    let y := System.run 120 (System.start State.reset (initPt 0 0 1 ++ reloadPt 0 2 3 ++ readPt 0 true 4)
      [.data dsBytes, .accepted, .data dsBytes, .data [0x7E#8, 0xED#8, 0x00#8], .data [0x65#8, 0x5A#8, 0xC0#8]]
      (List.replicate 30 false ++ [true]))
    (y.log.filter (· == .reset)).length = 1 ∧ y.scp.resValid = validPt ∧ y.replies.length = 0 ∧
      (y.log.filter (· == ran (.calLoad 0) .ok)).length = 2 := by decide +kernel

/-- 95_test_vectors.md Program 2's retry counter, `IF n > 3 GOTO give_up`: four turns. -/
theorem test_retry_counter :
    let prog : List Stmt := [.label 0, .assign 0 (.add (.var 0) (.num 1)), .ifGoto (.lt (.num 3) (.var 0)) 1, .goto 0, .label 1]
    (System.run 100 (System.start State.reset prog [] [])).var 0 = 4 := by decide

/-- R200: a pulse before the third step of the host, after CAL_LOAD has run, leaves the slot invalid. -/
theorem test_reset_during_a_program :
    let y := System.run 3 (System.start (sample dsBytes) [.cmd (.calLoad 0), .wait 1] [] [false, false, true])
    y.scp.status = 0#32 ∧ y.log = [.reset, ran (.calLoad 0) .ok] := by decide

/-! ## Witnesses -/

/-- A viewed value is that of a next state. -/
theorem view_some {α : Type} {a : Answer} {f : State → α} {v : α} (h : view a f = some v) :
    ∃ t, a = .next t ∧ f t = v := by
  cases a with
  | next t => exact ⟨t, rfl, Option.some.inj h⟩
  | fault _ => cases h
  | refused _ => cases h

/-- DS in slot 0 and the six bytes of PT-1. -/
def ptReady : State := withSlot (sample [0x7E#8, 0xED#8, 0x00#8, 0x65#8, 0x5A#8, 0xC0#8]) 0 dsSlot

/-- The eight bytes of LUX-3. -/
def luxReady : State := sample [0xE8#8, 0x03#8, 0x64#8, 0x00#8, 0x34#8, 0x12#8, 0xCD#8, 0xAB#8]

/-- `s` with one event at its port. -/
def facing (s : State) (e : PortEvent) : State := { s with port := [e] }

theorem witness_DecodeOfEncodeGivesTheCommand :
    (Instr.decBe16 22).wf Params.default = true ∧ (Instr.dec20 21).wf Params.default = true ∧
      (Instr.compPt 3).wf ⟨3, .leftToRight⟩ = true := by decide

theorem witness_EncodeOfDecodeGivesTheWord : decode Params.default 0x00001601#32 = .ok (.decBe16 22) := rfl

/-- For each clause a word inside its `if` and, where there is one, a word outside, at the bounds of OFF and SLOT. -/
theorem witness_DecodeFollowsTheDecodeRule :
    ([0x00000000#32, 0x00001601#32, 0x00001602#32, 0x00001503#32, 0x00000004#32, 0x00010010#32, 0x00010011#32, 0x00010020#32,
      0x00000021#32, 0x00000022#32, 0x00000023#32].all fun w => (decoded w 1).isSome) = true ∧
    ([0x00000100#32, 0x00001701#32, 0x00001702#32, 0x00001603#32, 0x00000104#32, 0x00020010#32, 0x00020011#32, 0x00020020#32,
      0x00000121#32, 0x00000122#32, 0x00000123#32, 0x000000FF#32].all fun w => (decoded w 1).isNone) = true := by decide

theorem witness_OneOpcodeRowHoldsEachWord : parse 0x00001701#32 = .ok (.decBe16 23) := rfl

theorem witness_ReservedEncodingsRaiseIllegalCmd :
    (0x05 ≤ (0x05#32).toNat % 256 ∧ (0x0F#32).toNat % 256 ≤ 0x0F) ∧
      (0x12 ≤ (0x12#32).toNat % 256 ∧ (0x1F#32).toNat % 256 ≤ 0x1F) ∧ 0x24 ≤ (0x24#32).toNat % 256 ∧
      262144 ≤ (0x00040010#32).toNat ∧ ((0x100#32).toNat % 256 = 0 ∧ (0x100#32).toNat / 256 ≠ 0) ∧
      ((0x2001#32).toNat % 256 = 1 ∧ (0x2001#32).toNat / 8192 ≠ 0) ∧
      ((0x110#32).toNat % 256 = 0x10 ∧ (0x110#32).toNat / 256 % 256 ≠ 0) := by decide

theorem witness_EncodingExamplesDecode :
    1 < (Params.mk 1 .squareFirst).nCalSlots ∧ Params.default.nCalSlots = 1 := by decide

theorem witness_StepRunsTheDecodedCommand :
    (facing ptReady (.write 0x004#12 0x20#32)).port = .write 0x004#12 0x20#32 :: [] ∧
      decode ptReady.cfg 0x20#32 = .ok (.compPt 0) := ⟨rfl, rfl⟩

theorem witness_IllFormedFieldsRaiseIllegalCmd : (Instr.dec20 22).wf State.reset.cfg = false := by decide

theorem witness_ResetPulseResetsTheBlock : (facing ptReady .reset).port = .reset :: [] := rfl

/-- A write of CMD runs the word. -/
theorem step_facing (s : State) (w : Word) : step (facing s (cmdWrite w)) = execute w (s.setPort []) := rfl

/-- A slot loaded and a lux result present. -/
def invReady : State := withSlot (luxReady.writeLux (F64.lit 100) 1#16 2#16 3#16 65535#16) 0 dsSlot

theorem invReady_countsWhole (e : PortEvent) : (facing invReady e).CountsWhole := by
  intro k h4 h7
  have hk : k = 4 ∨ k = 5 ∨ k = 6 ∨ k = 7 := by omega
  rcases hk with rfl | rfl | rfl | rfl
  · exact ⟨1#16, rfl⟩
  · exact ⟨2#16, rfl⟩
  · exact ⟨3#16, rfl⟩
  · exact ⟨65535#16, rfl⟩

theorem witness_EveryStepKeepsTheInvariant :
    ∃ s t : State, s.Inv ∧ (s.cal[0]).valid = true ∧ s.resValid = validLux ∧ step s = .next t := by
  obtain ⟨t, ht⟩ := execute_answers_next 0x22#32 (invReady.setPort [])
  refine ⟨facing invReady (cmdWrite 0x22#32), t, ⟨.inr (.inr (.inr rfl)), ?_, ?_, ?_, ?_, ?_, invReady_countsWhole _⟩, rfl, rfl,
    (step_facing _ _).trans ht⟩
  · unfold State.SlotsZeroed; decide
  · unfold State.AbsentEmpty; decide
  · exact fun _ => ⟨rfl, rfl⟩
  · exact .inl (by decide)
  · unfold State.LuxNonneg; decide +kernel

theorem witness_EveryStepKeepsResultsFinite : ∃ s t : State, s.ResultsFinite ∧ step s = .next t := by
  obtain ⟨t, ht⟩ := execute_answers_next 0x20#32 (ptReady.setPort [])
  refine ⟨facing ptReady (cmdWrite 0x20#32), t, ?_, (step_facing _ _).trans ht⟩
  unfold State.ResultsFinite
  decide +kernel

theorem witness_EveryStepKeepsTheParameters : ∃ s t : State, step s = .next t :=
  ⟨facing State.reset (.write 0x00C#12 5#32), _, rfl⟩

/-- The offsets of every clause, at the ends of its range. -/
theorem witness_HostReadReturnsTheMappedValue :
    (∀ off, (facing ptReady (.read off)).port = .read off :: []) ∧ (0x001#12).toNat % 4 ≠ 0 ∧
      (0x024#12).toNat = 0x010 + 4 * (5 : Fin 6).val ∧ (0x080#12).toNat = 0x040 + 8 * (8 : Fin 9).val ∧
      (0x084#12).toNat = 0x044 + 8 * (8 : Fin 9).val ∧
      ((3 : Fin 4).val < (withSlots ptReady 3).cfg.nCalSlots ∧
        (0x1EC#12).toNat = 0x100 + 0x40 * (3 : Fin 4).val + 4 * (11 : Fin 12).val) ∧
      ((0x130#12).toNat = 0x100 + 0x40 * (0 : Fin 4).val + 4 * (12 : Fin 16).val) ∧
      (ptReady.cfg.nCalSlots ≤ (1 : Fin 4).val ∧ (0x140#12).toNat = 0x100 + 0x40 * (1 : Fin 4).val + 4 * (0 : Fin 16).val) ∧
      ((0x088#12).toNat % 4 = 0 ∧ 0x088 ≤ (0x088#12).toNat ∧ (0x0FC#12).toNat < 0x100 ∧ 0x200 ≤ (0x200#12).toNat) := by
  refine ⟨fun _ => rfl, ?_⟩
  decide

/-- The offsets of every clause, at the ends of its range. -/
theorem witness_HostWriteFollowsTheWriteRule :
    (∀ off v, (facing ptReady (.write off v)).port = .write off v :: []) ∧ (0x006#12).toNat % 4 ≠ 0 ∧
      (0x010#12).toNat = 0x010 + 4 * (0 : Fin 6).val ∧ (0x024#12).toNat = 0x010 + 4 * (5 : Fin 6).val ∧
      (0x028 ≤ (0x028#12).toNat ∧ (0x02C#12).toNat < 0x030) ∧ 0x040 ≤ (0x040#12).toNat ∧ (0xFFC#12).toNat % 4 = 0 := by
  refine ⟨fun _ _ => rfl, ?_⟩
  decide

theorem witness_OnlyCmdWritesRunCommands :
    ∃ t, step (facing (State.reset.setErr .badCoeff) (.write 0x008#12 0x10#32)) = .next t ∧
      (PortEvent.write 0x008#12 0x10#32 ≠ .reset) ∧ ∀ w, PortEvent.write 0x008#12 0x10#32 ≠ .write 0x004#12 w :=
  ⟨_, rfl, by decide, by intro w h; cases h⟩

theorem witness_StatusHoldsItsFields : ∃ t, exec (.compPt 0) ptReady = .next t := exec_answers_next _ _

theorem witness_LdbufLoadsTheBytes : dsBytes.length ≤ 24 ∧ ([] : List Byte).length ≤ 24 := by decide

theorem witness_DecBe16CombinesBigEndian :
    (22 : Fin 32).val + 2 ≤ 24 ∧ (22 : Fin 32).val + 2 ≤ (sample dsBytes).ibufLen.toNat := by decide

theorem witness_DecLe16CombinesLittleEndian :
    (0 : Fin 32).val + 2 ≤ 24 ∧ (0 : Fin 32).val + 2 ≤ (sample [0x70#8, 0x6B#8]).ibufLen.toNat := by decide

theorem witness_Dec20UnpacksTwentyBits :
    (21 : Fin 32).val + 3 ≤ 24 ∧ (21 : Fin 32).val + 3 ≤ (sample dsBytes).ibufLen.toNat := by decide

/-- Each clause at the end of its range: one byte short, and IBUF_LEN just above 24. -/
theorem witness_CodecFetchChecksTheLength :
    ((22 : Fin 32).val + 2 ≤ 24 ∧ (State.reset.setIbufLen 23#6).ibufLen.toNat < (22 : Fin 32).val + 2) ∧
      ((21 : Fin 32).val + 3 ≤ 24 ∧ (State.reset.setIbufLen 23#6).ibufLen.toNat < (21 : Fin 32).val + 3) ∧
      24 < (State.reset.setIbufLen 25#6).ibufLen.toNat := by decide

theorem witness_CodecLawsHold :
    (State.reset.setIres 0x00008000#32).ires.extractLsb' 0 16 = enc16 (-32768) ∧
      (State.reset.setIres 0x00007FFF#32).ires.extractLsb' 0 16 = enc16 32767 := by decide

theorem witness_CalLoadParsesTheBlock :
    (0 : Fin 4).val < (sample dsBytes).cfg.nCalSlots ∧ ((sample dsBytes).cal[0]).valid = false ∧
      (sample dsBytes).ibufLen = 24#6 := by decide

theorem witness_CalLoadOfAValidSlotIsLocked :
    (0 : Fin 4).val < ptReady.cfg.nCalSlots ∧ (ptReady.cal[0]).valid = true := by decide

theorem witness_ShortCalibrationBlockLeavesTheSlotInvalid :
    (0 : Fin 4).val < luxReady.cfg.nCalSlots ∧ (luxReady.cal[0]).valid = false ∧ luxReady.ibufLen ≠ 24#6 := by decide

theorem witness_CalReleaseClearsTheSlot : (3 : Fin 4).val < (withSlots ptReady 3).cfg.nCalSlots := by decide

theorem witness_CalibrationReadbackExtends :
    (0 : Fin 4).val < ptReady.cfg.nCalSlots ∧ ptReady.cal[0].coef[0] = 0x6B70#16 ∧ ptReady.cal[0].coef[2] = 0xFC18#16 ∧
      ptReady.cal[0].coef[3] = 0x8E7D#16 := by decide

theorem witness_ValidSlotsAreImmutable :
    ∃ t, (0 : Fin 4).val < ptReady.cfg.nCalSlots ∧ ((facing ptReady (cmdWrite 0x10#32)).cal[0]).valid = true ∧
      step (facing ptReady (cmdWrite 0x10#32)) = .next t :=
  ⟨_, by decide, by decide, rfl⟩

theorem witness_CompPtComputesTheTwoChains :
    (0 : Fin 4).val < ptReady.cfg.nCalSlots ∧ (ptReady.cal[0]).valid = true ∧ ptReady.ibufLen = 6#6 := by decide

theorem witness_CompPtErrorsClearResValid :
    (0 : Fin 4).val < State.reset.cfg.nCalSlots ∧ (State.reset.cal[0]).valid = false ∧ (ptReady.cal[0]).valid = true ∧
      (ptReady.setIbufLen 5#6).ibufLen ≠ 6#6 := by decide

/-- PT-2's slot, P1 = 0, and for the last clause P6 = 0, P5 = -32768 and q1 = 2^19, where the first factor is zero. -/
theorem witness_ZeroDivisorGivesPressureZero :
    let c : CalSlot := { dsSlot with coef := dsSlot.coef.set 3 0#16 }
    let p : CalSlot := { dsSlot with coef := (dsSlot.coef.set 4 0x8000#16).set 5 0#16 }
    let q1 := F64.lit 524288
    (c.valid = true ∧ c.coef[3] = 0#16 ∧
      F64.feq (presDivisor .squareFirst c (presQ1 (c.tFine 0x7EED0#20))) (F64.lit 0) = true) ∧
      F64.feq (F64.fadd (F64.lit 1) (F64.fdiv (F64.fdiv (F64.fadd (F64.fdiv (F64.sq .squareFirst (p.num 5) q1)
        (F64.lit 524288)) (F64.fmul (p.num 4) q1)) (F64.lit 524288)) (F64.lit 32768))) (F64.lit 0) = true := by
  decide +kernel

theorem witness_GroupingChangesOnlyThePressure :
    (∃ t, exec (.compPt 0) { ptReady with cfg := { ptReady.cfg with sqGroup := .squareFirst } } = .next t) ∧
    (∃ u, exec (.compPt 0) { ptReady with cfg := { ptReady.cfg with sqGroup := .leftToRight } } = .next u) ∧
    dsSlot.coef.toList = [27504#16, 26435#16, 0xFC18#16, 36477#16, 0xD643#16, 3024#16, 2855#16, 140#16, 0xFFF9#16,
      15500#16, 0xC6F8#16, 6000#16] :=
  ⟨exec_answers_next _ _, exec_answers_next _ _, by decide⟩

theorem witness_CompRhConvertsTheSample :
    ptReady.ibufLen = 6#6 ∧ luxReady.ibufLen ≠ 6#6 ∧ (0x121#32).toNat % 256 = 0x21 ∧ (0x121#32).toNat / 256 ≠ 0 := by decide

theorem witness_RhResultsStayInRange : (0#16).toNat ≤ (65535#16).toNat := by decide

theorem witness_CrcRhComparesTheChecksums : ptReady.ibufLen = 6#6 ∧ luxReady.ibufLen ≠ 6#6 := by decide

theorem witness_CrcRhAndCompRhCommute : (∃ t, exec .crcRh ptReady = .next t) ∧ ∃ u, exec .compRh ptReady = .next u :=
  ⟨exec_answers_next _ _, exec_answers_next _ _⟩

theorem witness_CompLuxEstimatesTheLight :
    luxReady.ibufLen = 8#6 ∧ (F64.ofBits luxReady.luxKr).finite = true ∧ (F64.ofBits luxReady.luxKc).finite = true ∧
      (F64.fadd (F64.fmul (F64.ofBits luxReady.luxKr) (F64.i2f (100 : Nat)))
        (F64.fmul (F64.ofBits luxReady.luxKc) (F64.i2f (1000 : Nat)))).finite = true := by decide +kernel

theorem witness_LuxIsNeverNegative : ∃ t, exec .compLux luxReady = .next t ∧ t.err = .ok :=
  view_some (f := (·.err)) (by decide +kernel)

/-- LUX-3 on one side, and LUX-11, LUX-12 and LUX-13 on the other. -/
theorem witness_NonFiniteLuxRaisesBadCoeff :
    luxReady.ibufLen = 8#6 ∧
      (luxSum (F64.ofBits luxReady.luxKr) (F64.ofBits luxReady.luxKc) (luxReady.le16At 0) (luxReady.le16At 2)).finite = true ∧
      (F64.ofBits 0x7FF8000000000000#64).finite = false ∧ (F64.ofBits 0x7FF0000000000000#64).finite = false := by
  decide +kernel

theorem witness_RawCountsAreExact : ∃ t, exec .compLux (sample (List.replicate 8 0xFF#8)) = .next t ∧ t.err = .ok :=
  view_some (f := (·.err)) (by decide +kernel)

theorem witness_ResetCoefficientsNeverFail :
    luxReady.luxKr = State.reset.luxKr ∧ luxReady.luxKc = State.reset.luxKc ∧ luxReady.ibufLen = 8#6 := by decide

theorem witness_NopOnlySetsOk : (0x100#32).toNat % 256 = 0 ∧ (0x100#32).toNat ≠ 0 := by decide

/-- A command that raises, with its clearing write, and a word that does not decode. -/
theorem witness_ErrorsArePrecise :
    (∃ t, execute 0x20#32 State.reset = .next t ∧ t.err = .notCalibrated) ∧
      ∃ t, execute 0x05#32 State.reset = .next t ∧ t.err = .illegalCmd :=
  ⟨view_some (f := (·.err)) (by decide), view_some (f := (·.err)) (by decide)⟩

/-- The three examples of 60_exceptions.md R175. -/
theorem witness_ErrorsAreReportedInOrder :
    (decode ptReady.cfg 0x10#32 = .ok (.calLoad 0) ∧ decode ptReady.cfg 0x20#32 = .ok (.compPt 0) ∧
      decode ptReady.cfg 0x22#32 = .ok .compLux) ∧ ((ptReady.cal[0]).valid = true ∧ (ptReady.setIbufLen 5#6).ibufLen = 5#6) ∧
      ((State.reset.cal[0]).valid = false ∧ State.reset.ibufLen = 0#6) ∧
      (F64.ofBits (State.reset.setLuxKr 0x7FF8000000000000#64).luxKr = .nan ∧
        (State.reset.setIbufLen 7#6).ibufLen = 7#6) :=
  ⟨⟨rfl, rfl, rfl⟩, by decide⟩

/-- ERRS set, then a command, a reset and a clearing write. -/
theorem witness_StickyErrorStaysUntilCleared :
    let s := State.reset.setErr .badCoeff
    (s.errs = true ∧ ∃ t, step (facing s (cmdWrite 0#32)) = .next t ∧ t.errs = true) ∧
      (∃ t, step (facing s .reset) = .next t) ∧ (0x10#32).getLsbD 4 = true ∧
      ∃ t, step (facing s (.write 0x008#12 0x10#32)) = .next t ∧ t.errs = false :=
  ⟨⟨rfl, _, rfl, rfl⟩, ⟨_, rfl⟩, by decide, _, rfl, rfl⟩

theorem witness_CodecCommandsWriteOnlyIres :
    (∃ t, exec (.decBe16 0) ptReady = .next t ∧ t.err = .ok) ∧
      ∃ t, exec (.decBe16 0) State.reset = .next t ∧ t.err = .incompleteSample :=
  ⟨view_some (f := (·.err)) (by decide), view_some (f := (·.err)) (by decide)⟩

theorem witness_CalibrationCommandsWriteOnlyTheirSlot :
    (∃ t, exec (.calLoad 0) (sample dsBytes) = .next t ∧ t.err = .ok) ∧
      ∃ t, exec (.calLoad 0) State.reset = .next t ∧ t.err = .incompleteCal :=
  ⟨view_some (f := (·.err)) (by decide), view_some (f := (·.err)) (by decide)⟩

theorem witness_CompensationCommandsWriteOnlyTheirResults :
    (∃ t, exec (.compPt 0) ptReady = .next t ∧ t.err = .ok) ∧
      ∃ t, exec .compRh State.reset = .next t ∧ t.err = .incompleteSample :=
  ⟨view_some (f := (·.err)) (by decide +kernel), view_some (f := (·.err)) (by decide)⟩

theorem witness_CrcRhWritesOnlyTheCrcBits :
    (∃ t, exec .crcRh ptReady = .next t) ∧ ∃ t, exec .crcRh State.reset = .next t ∧ t.err = .incompleteSample :=
  ⟨exec_answers_next _ _, view_some (f := (·.err)) (by decide)⟩

/-- At a tie: 3 halves of a unit, and a coarser value on the grid. -/
theorem witness_RoundingIsNearestTiesToEven :
    0 < 2 ∧ F64.spacing 2 ∣ 2 ∧ F64.spacing (2 ^ 53) ∣ 2 ^ 53 ∧ F64.roundMag 3 2 = 2 := by decide +kernel

theorem witness_EncodingOfAValueIsItsPattern :
    F64.ofBits 0x8000000000000000#64 ≠ .nan ∧ F64.ofBits 0x7FF0000000000000#64 ≠ .nan ∧
      F64.ofBits 0x0000000000000001#64 ≠ .nan := by decide

/-- The divisor of DS at PT-1 is not zero: the premise of the inner clause. -/
theorem witness_CompPtIntermediatesAreBounded :
    ∃ neg mag, presDivisor .squareFirst dsSlot (presQ1 (dsSlot.tFine 0x7EED0#20)) = .fin neg mag ∧ mag ≠ 0 := by
  have h : (presDivisor .squareFirst dsSlot (presQ1 (dsSlot.tFine 0x7EED0#20))).finite = true ∧
      F64.feq (presDivisor .squareFirst dsSlot (presQ1 (dsSlot.tFine 0x7EED0#20))) (F64.lit 0) = false := by decide +kernel
  cases hd : presDivisor .squareFirst dsSlot (presQ1 (dsSlot.tFine 0x7EED0#20)) with
  | nan => rw [hd] at h; cases h.1
  | inf s => rw [hd] at h; cases h.1
  | fin s m =>
    refine ⟨s, m, rfl, ?_⟩
    rintro rfl
    rw [hd] at h
    simp [F64.feq, F64.lit] at h

/-- A run that writes the control register, reads a sample and issues COMP_PT. -/
theorem witness_ControlWriteComesAfterCalLoad :
    let y := System.run 80 (System.start State.reset (initPt 0 0 1 ++ reloadPt 0 2 3 ++ readPt 0 true 4)
      [.data dsBytes, .accepted, .data [0x7E#8, 0xED#8, 0x00#8], .data [0x65#8, 0x5A#8, 0xC0#8]] [])
    y.controlWritten 0 = true ∧ y.scp.resValid = validPt ∧ y.var 4 = 0x408F7442 := by decide +kernel

/-- Runs that do read a sample and issue COMP_RH and COMP_LUX. -/
theorem witness_HostSequencesKeepTheirWaits :
    (System.run 60 (System.start State.reset (initRh ++ readRh true true 0)
      [.accepted, .data [0x66#8, 0x66#8, 0x93#8, 0x80#8, 0x00#8, 0xA2#8]] [])).scp.resValid = validRh ∧
    (System.run 60 (System.start State.reset (initLux 0 1 ++ readLux true 2)
      [.accepted, .accepted, .accepted, .accepted, .data (List.replicate 8 0x11#8)] [])).scp.resValid = validLux := by
  decide +kernel

end Sys2Proof.Tests
end

section
/-! The register state: reset values, ID, and what can change a calibration slot (10_state.md R21, R31, R35). -/

namespace Sys2Proof.Machine

variable {s t : State}

/-! ## Reading a register by its offset -/

/-- A read at the offset of a register that exists returns that register. -/
theorem State.readAt_offset (s : State) {r : Reg} (h : r.present s.cfg = true) : s.readAt r.offset = s.readReg r := by
  simp only [State.readAt, Reg.at_offset h]

/-- 10_state.md R21: the read goes to ID under every parameter set, and ID has no state. -/
theorem State.readAt_id (s : State) : s.readAt 0x000#12 = idValue := s.readAt_offset (r := .id) rfl

/-! ## What can change a calibration slot -/

/-- CAL is read-only to the host (20_memory.md R41): no write of a register stores in it. -/
@[simp] theorem State.writeReg_cal (s : State) (r : Reg) (v : Word) : (s.writeReg r v).cal = s.cal := by
  cases r with
  | status => simp only [State.writeReg]; split <;> rfl
  | _ => rfl

@[simp] theorem State.writeAt_cal (s : State) (off : Off) (v : Word) : (s.writeAt off v).cal = s.cal := by
  unfold State.writeAt
  split
  · exact s.writeReg_cal _ v
  · rfl

/-- The three fetching codec commands share this shape; none of its answers touches CAL. -/
theorem cal_of_onBytes_codecResult {off : Fin 32} {w : Nat} {v : Word}
    (h : onBytes off w s (codecResult v s) = .next t) : t.cal = s.cal := by
  rcases onBytes_cases h with ⟨-, -, h⟩ | ⟨-, -, rfl⟩ | ⟨-, rfl⟩
  · rw [complete_eq_next.1 h]; rfl
  · rfl
  · rfl

theorem execCompPt_cal {slot : Fin 4} (h : execCompPt slot s = .next t) : t.cal = s.cal := by
  rcases execCompPt_cases h with ⟨-, -, -, rfl⟩ | ⟨-, -, -, rfl⟩ | ⟨-, -, rfl⟩ | ⟨-, rfl⟩ <;> rfl

theorem execCompRh_cal (h : execCompRh s = .next t) : t.cal = s.cal := by
  rcases execCompRh_cases h with ⟨-, rfl⟩ | ⟨-, rfl⟩ <;> rfl

theorem execCompLux_cal (h : execCompLux s = .next t) : t.cal = s.cal := by
  rcases execCompLux_cases h with ⟨-, -, -, -, rfl⟩ | ⟨-, rfl, -⟩ | ⟨-, rfl⟩ <;> rfl

theorem execCrcRh_cal (h : execCrcRh s = .next t) : t.cal = s.cal := by
  rcases crcRhWith_cases h with ⟨-, rfl⟩ | ⟨-, rfl⟩ <;> rfl

/-- The calibration store after a command: untouched, one invalid slot loaded, or one slot emptied
(41_calibration.md R110 to R115). -/
theorem exec_cal_cases {i : Instr} (h : exec i s = .next t) :
    t.cal = s.cal ∨
      (∃ slot, i = .calLoad slot ∧ (s.cal[slot]).valid = false ∧ t.cal = s.cal.set slot ⟨true, s.calBlock⟩) ∨
      ∃ slot, i = .calRelease slot ∧ t.cal = s.cal.set slot CalSlot.empty := by
  cases i with
  | nop => exact .inl (by rw [execNop_cases h]; rfl)
  | decBe16 off => exact .inl (cal_of_onBytes_codecResult h)
  | decLe16 off => exact .inl (cal_of_onBytes_codecResult h)
  | dec20 off => exact .inl (cal_of_onBytes_codecResult h)
  | toS16 => exact .inl (by rw [execToS16_cases h]; rfl)
  | calLoad slot =>
    rcases execCalLoad_cases h with ⟨-, hv, -, rfl⟩ | ⟨-, -, -, rfl⟩ | ⟨-, -, rfl⟩ | ⟨-, rfl⟩
    · exact .inr (.inl ⟨slot, rfl, hv, rfl⟩)
    all_goals exact .inl rfl
  | calRelease slot =>
    rcases execCalRelease_cases h with ⟨-, rfl⟩ | ⟨-, rfl⟩
    · exact .inr (.inr ⟨slot, rfl, rfl⟩)
    · exact .inl rfl
  | compPt slot => exact .inl (execCompPt_cal h)
  | compRh => exact .inl (execCompRh_cal h)
  | compLux => exact .inl (execCompLux_cal h)
  | crcRh => exact .inl (execCrcRh_cal h)

/-- A valid slot outlives every command but its own CAL_RELEASE (10_state.md R31). A CAL_LOAD that stores has named an
invalid slot, so another one. -/
theorem exec_keeps_valid_slot {i : Instr} {slot : Fin 4} (hv : (s.cal[slot]).valid = true) (h : exec i s = .next t) :
    t.cal[slot] = s.cal[slot] ∨ i = .calRelease slot := by
  rcases exec_cal_cases h with hc | ⟨k, -, hk, hc⟩ | ⟨k, rfl, hc⟩
  · exact .inl (by rw [hc])
  · have hne : k ≠ slot := by rintro rfl; cases hk.symm.trans hv
    exact .inl (by rw [hc]; exact setCal_other s hne _)
  · by_cases hks : k = slot
    · exact .inr (by rw [hks])
    · exact .inl (by rw [hc]; exact setCal_other s hks _)

/-- The same for a word written to CMD, which may also decode to no command. -/
theorem execute_keeps_valid_slot {w : Word} {slot : Fin 4} (hv : (s.cal[slot]).valid = true)
    (h : execute w s = .next t) : t.cal[slot] = s.cal[slot] ∨ decode s.cfg w = .ok (.calRelease slot) := by
  rcases execute_cases h with ⟨i, hd, hi⟩ | ⟨-, rfl⟩
  · rcases exec_keeps_valid_slot hv hi with hkept | rfl
    · exact .inl hkept
    · exact .inr hd
  · exact .inl rfl

/-- The same for any event at the port. -/
theorem serve_keeps_valid_slot {e : PortEvent} {slot : Fin 4} (hv : (s.cal[slot]).valid = true)
    (h : serve e s = .next t) :
    t.cal[slot] = s.cal[slot] ∨ e = .reset ∨ ∃ w, e = cmdWrite w ∧ decode s.cfg w = .ok (.calRelease slot) := by
  rcases serve_cases h with ⟨off, -, -, rfl⟩ | ⟨w, rfl, hx⟩ | ⟨off, v, -, -, -, rfl⟩ | ⟨rfl, -⟩
  · exact .inl rfl
  · rcases execute_keeps_valid_slot hv hx with hkept | hd
    · exact .inl hkept
    · exact .inr (.inr ⟨w, rfl, hd⟩)
  · exact .inl (by rw [State.writeAt_cal])
  · exact .inr (.inl rfl)

/-- CAL_LOAD of a valid slot raises CAL_LOCKED (41_calibration.md R112). -/
theorem execCalLoad_of_valid {slot : Fin 4} (hx : slotExists s.cfg slot = true) (hv : (s.cal[slot]).valid = true) :
    execCalLoad slot s = .next (s.setErr .calLocked) := by
  rw [execCalLoad, onSlot_exists hx, if_pos hv, raise]

/-! ## The obligations -/

/-- Settles O33, by what each event at the port can do to a valid slot. -/
theorem validSlotsAreImmutable : Obligations.ValidSlotsAreImmutable := by
  unfold Obligations.ValidSlotsAreImmutable
  refine ⟨fun s t slot hv h => ?_, fun s slot hx hv => execCalLoad_of_valid (decide_eq_true hx) hv⟩
  rcases step_cases h with ⟨-, rfl⟩ | ⟨e, rest, hp, hs⟩
  · exact .inl rfl
  · rcases serve_keeps_valid_slot (s := s.setPort rest) hv hs with hkept | rfl | ⟨w, rfl, hd⟩
    · exact .inl hkept
    · exact .inr (.inl ⟨rest, hp⟩)
    · exact .inr (.inr ⟨w, rest, hp, hd⟩)

/-- Settles O9: each register and STATUS field is a value of `State.reset`, and the arrays are constant. -/
theorem resetLeavesTheCollectedValues : Obligations.ResetLeavesTheCollectedValues := by
  unfold Obligations.ResetLeavesTheCollectedValues
  have hibuf : ∀ i : Fin 24, State.reset.ibuf[i] = 0x00#8 := fun i => by simp [State.reset]
  have hres : ∀ k : Fin 9, State.reset.res[k] = 0#64 := fun k => by simp [State.reset]
  have hcal : ∀ k : Fin 4, State.reset.cal[k] = CalSlot.empty := fun k => by simp [State.reset]
  have hempty : ∀ c : Fin 12, CalSlot.empty.coef[c] = 0x0000#16 := fun c => by simp [CalSlot.empty]
  have hstatus : State.reset.status = 0x00000000#32 ∧ State.reset.calValid = 0#4 := by decide
  refine ⟨rfl, hstatus.1, rfl, rfl, rfl, rfl, rfl, hstatus.2, hibuf, rfl, rfl, hres, rfl, rfl, rfl, fun k => ?_⟩
  rw [hcal k]
  exact ⟨rfl, hempty⟩

/-- Settles O18, from the register map: offset 0 is ID's under every parameter set. -/
theorem idAlwaysReadsItsConstant : Obligations.IdAlwaysReadsItsConstant := by
  unfold Obligations.IdAlwaysReadsItsConstant
  intro s
  rw [s.readAt_id]
  decide

end Sys2Proof.Machine
end

section
/-! The encoding: the fields of a word as numbers, parsing said once for every opcode, the opcode table's rows, and what a
word written to CMD does (30_encoding.md R71 to R76, R80). -/

namespace Sys2Proof

/-! ## The fields of a word as numbers -/

theorem opcField_toNat (w : Word) : (opcField w).toNat = w.toNat % 256 := by simp [opcField]

theorem offField_val (w : Word) : (offField w).val = w.toNat / 256 % 32 := by simp [offField, Nat.shiftRight_eq_div_pow]

theorem slotField_val (w : Word) : (slotField w).val = w.toNat / 65536 % 4 := by
  simp [slotField, Nat.shiftRight_eq_div_pow]

theorem fixedN_iff (w : Word) : fixedN w = true ↔ w.toNat / 256 = 0 := by
  rw [fixedN, beq_iff_eq, ← BitVec.toNat_inj, BitVec.extractLsb'_toNat, Nat.shiftRight_eq_div_pow, BitVec.toNat_ofNat]
  omega

theorem fixedO_iff (w : Word) : fixedO w = true ↔ w.toNat / 8192 = 0 := by
  rw [fixedO, beq_iff_eq, ← BitVec.toNat_inj, BitVec.extractLsb'_toNat, Nat.shiftRight_eq_div_pow, BitVec.toNat_ofNat]
  omega

theorem fixedS_iff (w : Word) : fixedS w = true ↔ w.toNat / 262144 = 0 ∧ w.toNat / 256 % 256 = 0 := by
  simp only [fixedS, Bool.and_eq_true, beq_iff_eq, ← BitVec.toNat_inj, BitVec.extractLsb'_toNat,
    Nat.shiftRight_eq_div_pow, BitVec.toNat_ofNat]
  omega

theorem offFits_iff {off : Fin 32} {w : Nat} : offFits off w = true ↔ off.val + w ≤ 24 := decide_eq_true_iff

theorem slotExists_iff {cfg : Params} {slot : Fin 4} : slotExists cfg slot = true ↔ slot.val < cfg.nCalSlots :=
  decide_eq_true_iff

/-! ## Parsing, said once for every opcode

`parse` tests the opcodes one by one. The opcode, the fixed bits and the fields of a command, each as a function of the
command, let the lemmas below speak of all eleven together. -/

/-- OPC of a command (30_encoding.md R74). -/
def Instr.opcode : Instr → Byte
  | .nop => 0x00#8
  | .decBe16 _ => 0x01#8
  | .decLe16 _ => 0x02#8
  | .dec20 _ => 0x03#8
  | .toS16 => 0x04#8
  | .calLoad _ => 0x10#8
  | .calRelease _ => 0x11#8
  | .compPt _ => 0x20#8
  | .compRh => 0x21#8
  | .compLux => 0x22#8
  | .crcRh => 0x23#8

/-- The bits that the format of a command fixes are zero in `w` (30_encoding.md R72). -/
def Instr.fixedZero (w : Word) : Instr → Bool
  | .nop | .toS16 | .compRh | .compLux | .crcRh => fixedN w
  | .decBe16 _ | .decLe16 _ | .dec20 _ => fixedO w
  | .calLoad _ | .calRelease _ | .compPt _ => fixedS w

/-- The command of the same opcode with the fields of `w`. -/
def Instr.withFields (w : Word) : Instr → Instr
  | .decBe16 _ => .decBe16 (offField w)
  | .decLe16 _ => .decLe16 (offField w)
  | .dec20 _ => .dec20 (offField w)
  | .calLoad _ => .calLoad (slotField w)
  | .calRelease _ => .calRelease (slotField w)
  | .compPt _ => .compPt (slotField w)
  | .nop => .nop
  | .toS16 => .toS16
  | .compRh => .compRh
  | .compLux => .compLux
  | .crcRh => .crcRh

@[simp] theorem Instr.opcode_withFields (w : Word) (i : Instr) : (i.withFields w).opcode = i.opcode := by
  cases i <;> rfl

@[simp] theorem Instr.fixedZero_withFields (w : Word) (i : Instr) : (i.withFields w).fixedZero w = i.fixedZero w := by
  cases i <;> rfl

/-- A word with the opcode of `i` spells that command with the word's own fields, or has a fixed bit set. -/
theorem parse_of_opcode {w : Word} (i : Instr) (h : opcField w = i.opcode) :
    parse w = whenZero (i.fixedZero w) (i.withFields w) := by
  cases i <;> simp [parse, h, Instr.opcode, Instr.fixedZero, Instr.withFields]

/-- An opcode of no command is reserved (30_encoding.md R76). -/
theorem parse_of_reserved {w : Word} (h : ∀ i : Instr, opcField w ≠ i.opcode) : parse w = .error .reservedOpcode := by
  have hnone : opcField w ∉ [0x00#8, 0x01#8, 0x02#8, 0x03#8, 0x04#8, 0x10#8, 0x11#8, 0x20#8, 0x21#8, 0x22#8, 0x23#8] := by
    simpa only [List.mem_cons, List.not_mem_nil, or_false, not_or] using
      ⟨h .nop, h (.decBe16 0), h (.decLe16 0), h (.dec20 0), h .toS16, h (.calLoad 0), h (.calRelease 0), h (.compPt 0),
        h .compRh, h .compLux, h .crcRh⟩
  simp only [List.mem_cons, List.not_mem_nil, or_false, not_or] at hnone
  simp [parse, hnone]

/-- A word parses to `i` exactly when it has the opcode, the zero bits and the fields of `i`. -/
theorem parse_eq_ok {w : Word} {i : Instr} :
    parse w = .ok i ↔ opcField w = i.opcode ∧ i.fixedZero w = true ∧ i.withFields w = i := by
  constructor
  · intro h
    by_cases hr : ∃ j : Instr, opcField w = j.opcode
    · obtain ⟨j, hj⟩ := hr
      rw [parse_of_opcode j hj, whenZero_eq_ok] at h
      obtain ⟨hz, rfl⟩ := h
      exact ⟨by simpa using hj, by simpa using hz, by cases j <;> rfl⟩
    · rw [parse_of_reserved (not_exists.1 hr)] at h
      cases h
  · rintro ⟨ho, hz, hf⟩
    rw [parse_of_opcode i ho, whenZero_eq_ok]
    exact ⟨hz, hf⟩

/-- The word of a command spells that command, whatever the values of its fields. -/
theorem parse_encode (i : Instr) : parse (encode i) = .ok i := by
  cases i with
  | nop | toS16 | compRh | compLux | crcRh => rfl
  | decBe16 off | decLe16 off | dec20 off => revert off; decide
  | calLoad slot | calRelease slot | compPt slot => revert slot; decide

/-- Encoding, then decoding, gives a command with legal fields back. -/
theorem decode_encode {cfg : Params} {i : Instr} (h : i.wf cfg = true) : decode cfg (encode i) = .ok i :=
  decode_eq_ok.2 ⟨parse_encode i, h⟩

theorem decode_of_parse_error {cfg : Params} {w : Word} {e : DecodeError} (h : parse w = .error e) :
    decode cfg w = .error e := by
  rw [decode, h]

theorem decode_of_ill_formed {cfg : Params} {w : Word} {i : Instr} (hp : parse w = .ok i) (hw : i.wf cfg = false) :
    decode cfg w = .error .operandRange := by
  simp [decode, hp, hw]

/-! ## The rows of the opcode table -/

/-- The table has the row of every command and no other. -/
theorem mem_opcodeTable {r : Row} : r ∈ opcodeTable ↔ ∃ i : Instr, i.row = r := by
  constructor
  · intro h
    obtain ⟨i, -, rfl⟩ := List.mem_map.1
      (show r ∈ [.nop, .decBe16 0, .decLe16 0, .dec20 0, .toS16, .calLoad 0, .calRelease 0, .compPt 0, .compRh, .compLux,
        .crcRh].map Instr.row from h)
    exact ⟨i, rfl⟩
  · rintro ⟨i, rfl⟩
    cases i <;> simp [opcodeTable, Instr.row]

theorem bitVec_append_inj {v u : Nat} {a c : BitVec v} {b d : BitVec u} : a ++ b = c ++ d ↔ a = c ∧ b = d := by
  constructor
  · intro h
    have hl := congrArg (BitVec.extractLsb' u v) h
    have hr := congrArg (BitVec.extractLsb' 0 u) h
    rw [BitVec.extractLsb'_append_eq_left, BitVec.extractLsb'_append_eq_left] at hl
    rw [BitVec.extractLsb'_append_eq_right, BitVec.extractLsb'_append_eq_right] at hr
    exact ⟨hl, hr⟩
  · rintro ⟨rfl, rfl⟩; rfl

theorem word_eq_append_opcField (w : Word) : w = w.extractLsb' 8 24 ++ opcField w :=
  (BitVec.extractLsb'_append_extractLsb' (w := 24) (len := 8)).symm

/-- A mask that keeps OPC compares OPC, and the bits it keeps of the rest with zero. -/
theorem and_keepOpc_eq {w : Word} {opc : Byte} (m : BitVec 24) :
    w &&& (m ++ BitVec.allOnes 8 : Word) = opc.setWidth 32 ↔ opcField w = opc ∧ w.extractLsb' 8 24 &&& m = 0#24 := by
  have hp : opc.setWidth 32 = 0#24 ++ opc := BitVec.setWidth_eq_append (by decide)
  conv_lhs => rw [word_eq_append_opcField w, BitVec.and_append, hp, bitVec_append_inj, BitVec.and_allOnes]
  exact and_comm

theorem and_maskN {w : Word} {opc : Byte} :
    w &&& 0xFFFFFFFF#32 = opc.setWidth 32 ↔ opcField w = opc ∧ fixedN w = true := by
  have hm : 0xFFFFFFFF#32 = BitVec.allOnes 24 ++ BitVec.allOnes 8 := by decide
  rw [hm, and_keepOpc_eq, BitVec.and_allOnes, fixedN, beq_iff_eq]

/-- The mask of format O leaves out OFF. -/
theorem and_maskO {w : Word} {opc : Byte} :
    w &&& 0xFFFFE0FF#32 = opc.setWidth 32 ↔ opcField w = opc ∧ fixedO w = true := by
  have hw : w.extractLsb' 8 24 = w.extractLsb' 13 19 ++ w.extractLsb' 8 5 :=
    (BitVec.extractLsb'_append_extractLsb'_eq_extractLsb' (start₁ := 8) (len₁ := 5) (len₂ := 19) rfl).symm
  have hm : 0xFFFFE0FF#32 = (BitVec.allOnes 19 ++ 0#5) ++ BitVec.allOnes 8 := by decide
  have hz : 0#24 = 0#19 ++ 0#5 := by decide
  rw [hm, and_keepOpc_eq, hw, BitVec.and_append, hz, bitVec_append_inj, BitVec.and_allOnes, BitVec.and_zero, fixedO,
    beq_iff_eq, and_iff_left rfl]

/-- The mask of format S leaves out SLOT. -/
theorem and_maskS {w : Word} {opc : Byte} :
    w &&& 0xFFFCFFFF#32 = opc.setWidth 32 ↔ opcField w = opc ∧ fixedS w = true := by
  have hw : w.extractLsb' 8 24 = w.extractLsb' 18 14 ++ w.extractLsb' 16 2 ++ w.extractLsb' 8 8 := by
    rw [BitVec.extractLsb'_append_extractLsb'_eq_extractLsb' (w := 32) (start₁ := 16) (len₁ := 2) rfl]
    exact (BitVec.extractLsb'_append_extractLsb'_eq_extractLsb' (start₁ := 8) (len₁ := 8) (len₂ := 16) rfl).symm
  have hm : 0xFFFCFFFF#32 = (BitVec.allOnes 14 ++ 0#2 ++ BitVec.allOnes 8) ++ BitVec.allOnes 8 := by decide
  have hz : 0#24 = 0#14 ++ 0#2 ++ 0#8 := by decide
  rw [hm, and_keepOpc_eq, hw, BitVec.and_append, BitVec.and_append, hz, bitVec_append_inj, bitVec_append_inj,
    BitVec.and_allOnes, BitVec.and_allOnes, BitVec.and_zero, fixedS, Bool.and_eq_true, beq_iff_eq, beq_iff_eq,
    and_iff_left rfl]

/-- The bits that a row prints are its opcode's. -/
theorem row_pattern (i : Instr) : i.row.pattern = i.opcode.setWidth 32 := by
  cases i <;> rfl

/-- A word is in the row of a command exactly when it has the command's opcode and zero bits. -/
theorem holds_row_iff {w : Word} (i : Instr) :
    i.row.holds w = true ↔ opcField w = i.opcode ∧ i.fixedZero w = true := by
  rw [Row.holds, beq_iff_eq, row_pattern]
  cases i with
  | nop | toS16 | compRh | compLux | crcRh => exact and_maskN
  | decBe16 _ | decLe16 _ | dec20 _ => exact and_maskO
  | calLoad _ | calRelease _ | compPt _ => exact and_maskS

/-- Parsing and the opcode table accept the same words (30_encoding.md R75). -/
theorem parses_iff_in_opcodeTable (w : Word) : (∃ i, parse w = .ok i) ↔ ∃ r ∈ opcodeTable, r.holds w = true := by
  constructor
  · rintro ⟨i, h⟩
    obtain ⟨ho, hz, -⟩ := parse_eq_ok.1 h
    exact ⟨i.row, mem_opcodeTable.2 ⟨i, rfl⟩, (holds_row_iff i).2 ⟨ho, hz⟩⟩
  · rintro ⟨r, hr, hw⟩
    obtain ⟨i, rfl⟩ := mem_opcodeTable.1 hr
    obtain ⟨ho, hz⟩ := (holds_row_iff i).1 hw
    exact ⟨i.withFields w, by rw [parse_of_opcode i ho, hz]; rfl⟩

end Sys2Proof

namespace Sys2Proof.Machine

/-! ## What a word written to CMD does -/

variable {s : State} {w : Word}

/-- A word that does not parse raises ILLEGAL_CMD. -/
theorem execute_of_not_parsed (h : ∀ i, parse w ≠ .ok i) : execute w s = raise .illegalCmd s := by
  unfold execute
  cases hd : decode s.cfg w with
  | ok i => exact absurd (decode_eq_ok.1 hd).1 (h i)
  | error e => rfl

/-- The word of one opcode runs the command where the fixed bits are zero and the fields legal, and else raises
ILLEGAL_CMD. -/
theorem execute_of_whenZero {z : Bool} {i : Instr} (h : parse w = whenZero z i) :
    execute w s = if z = true ∧ i.wf s.cfg = true then exec i s else raise .illegalCmd s := by
  cases z <;> cases hw : i.wf s.cfg <;> simp [execute, decode, h, whenZero, hw]

theorem execute_formatN {i : Instr} (h : parse w = whenZero (fixedN w) i) (hw : i.wf s.cfg = true) :
    if w.toNat / 256 = 0 then execute w s = exec i s else execute w s = raise .illegalCmd s := by
  rw [execute_of_whenZero h]
  simp only [fixedN_iff, hw, and_true]
  split <;> rfl

/-- `mk` is the command of format O over `n` bytes, `m` the last offset at which they fit. -/
theorem execute_formatO {mk : Fin 32 → Instr} {n m : Nat} (h : parse w = whenZero (fixedO w) (mk (offField w)))
    (hw : ∀ k, (mk k).wf s.cfg = offFits k n) (hm : m + n = 24) :
    if w.toNat / 8192 = 0 ∧ w.toNat / 256 % 32 ≤ m then
      ∃ k : Fin 32, k.val = w.toNat / 256 % 32 ∧ execute w s = exec (mk k) s
    else execute w s = raise .illegalCmd s := by
  have hfits : offFits (offField w) n = true ↔ w.toNat / 256 % 32 ≤ m := by rw [offFits_iff, offField_val]; omega
  rw [execute_of_whenZero h]
  simp only [fixedO_iff, hw, hfits]
  split
  · exact ⟨offField w, offField_val w, rfl⟩
  · rfl

/-- `mk` is a command of format S. -/
theorem execute_formatS {mk : Fin 4 → Instr} (h : parse w = whenZero (fixedS w) (mk (slotField w)))
    (hw : ∀ k, (mk k).wf s.cfg = slotExists s.cfg k) :
    if w.toNat / 262144 = 0 ∧ w.toNat / 256 % 256 = 0 ∧ w.toNat / 65536 % 4 < s.cfg.nCalSlots then
      ∃ k : Fin 4, k.val = w.toNat / 65536 % 4 ∧ execute w s = exec (mk k) s
    else execute w s = raise .illegalCmd s := by
  rw [execute_of_whenZero h]
  simp only [fixedS_iff, hw, slotExists_iff, slotField_val, and_assoc]
  split
  · exact ⟨slotField w, slotField_val w, rfl⟩
  · rfl

/-- OPC as the rule of R75 writes it, a number, is the field. -/
theorem parse_of_opc (i : Instr) (h : w.toNat % 256 = i.opcode.toNat) :
    parse w = whenZero (i.fixedZero w) (i.withFields w) :=
  parse_of_opcode i (BitVec.eq_of_toNat_eq ((opcField_toNat w).trans h))

/-- The opcode, as a number, of a word that parses. -/
theorem opc_of_parse {i : Instr} (h : parse w = .ok i) : w.toNat % 256 = i.opcode.toNat := by
  rw [← opcField_toNat, (parse_eq_ok.1 h).1]

/-- A word that parses has an opcode of R74's map, and zero in every bit outside the fields of its format (R72). -/
theorem opc_and_zeros_of_parse {i : Instr} (h : parse w = .ok i) :
    (w.toNat % 256 ∈ [0x00, 0x04, 0x21, 0x22, 0x23] ∧ w.toNat / 256 = 0) ∨
      (w.toNat % 256 ∈ [0x01, 0x02, 0x03] ∧ w.toNat / 8192 = 0) ∨
      (w.toNat % 256 ∈ [0x10, 0x11, 0x20] ∧ w.toNat / 262144 = 0 ∧ w.toNat / 256 % 256 = 0) := by
  rw [opc_of_parse h]
  obtain ⟨-, hz, -⟩ := parse_eq_ok.1 h
  cases i with
  | nop | toS16 | compRh | compLux | crcRh => exact .inl ⟨by decide, (fixedN_iff w).1 hz⟩
  | decBe16 _ | decLe16 _ | dec20 _ => exact .inr (.inl ⟨by simp [Instr.opcode], (fixedO_iff w).1 hz⟩)
  | calLoad _ | calRelease _ | compPt _ => exact .inr (.inr ⟨by simp [Instr.opcode], (fixedS_iff w).1 hz⟩)

/-! ## NOP alone does nothing but set ERR to OK -/

theorem setOk_ne_setErr {u : State} {e : ErrCode} (he : e ≠ .ok) : s.setOk ≠ u.setErr e :=
  fun h => he (congrArg State.err h).symm

/-- On an empty buffer no bytes can be fetched. -/
theorem onBytes_reset_ne_setOk {u : State} {off : Fin 32} {n : Nat} {run : Answer} (hn : 0 < n) :
    onBytes off n State.reset run ≠ .next u.setOk := by
  intro h
  rcases onBytes_cases h with ⟨-, hl, -⟩ | ⟨-, -, ht⟩ | ⟨-, ht⟩
  · have hzero : State.reset.ibufLen.toNat = 0 := rfl
    omega
  all_goals exact setOk_ne_setErr (by decide) ht

/-- A fixed-length command that ends with OK had its length. -/
theorem length_of_onLength_setOk {u : State} {n : Nat} {e : ErrCode} {run : Answer} (he : e ≠ .ok)
    (h : onLength n e s run = .next u.setOk) : s.ibufLen.toNat = n := by
  rcases onLength_cases h with ⟨hl, -⟩ | ⟨-, ht⟩
  · exact hl
  · exact absurd ht (setOk_ne_setErr he)

/-- Every command but NOP has a state that shows it: an empty buffer and no valid slot, which make it raise, for TO_S16 a
negative IRES, and for CAL_RELEASE a valid slot. -/
theorem eq_nop_of_only_setOk {i : Instr} (h : ∀ s, exec i s = .next s.setOk) : i = .nop := by
  cases i with
  | nop => rfl
  | decBe16 _ | decLe16 _ | dec20 _ => exact absurd (h State.reset) (onBytes_reset_ne_setOk (by decide))
  | toS16 =>
    have ht := execToS16_cases (h (State.reset.setIres 0x00008000#32))
    exact absurd (congrArg State.ires ht) (by decide)
  | calLoad slot =>
    rcases execCalLoad_cases (h State.reset) with ⟨-, -, hl, -⟩ | ⟨-, -, -, ht⟩ | ⟨-, -, ht⟩ | ⟨-, ht⟩
    · exact absurd hl (by decide)
    all_goals exact absurd ht (setOk_ne_setErr (by decide))
  | calRelease slot =>
    have hr := h (State.reset.setCal slot { CalSlot.empty with valid := true })
    rcases execCalRelease_cases hr with ⟨-, ht⟩ | ⟨-, ht⟩
    · exact absurd (congrArg (fun t : State => (t.cal[slot]).valid) ht) (by simp [CalSlot.empty])
    · exact absurd ht (setOk_ne_setErr (by decide))
  | compPt slot =>
    rcases execCompPt_cases (h State.reset) with ⟨-, -, hl, -⟩ | ⟨-, -, -, ht⟩ | ⟨-, -, ht⟩ | ⟨-, ht⟩
    · exact absurd hl (by decide)
    all_goals exact absurd ht (setOk_ne_setErr (by decide))
  | compRh =>
    have hr : execCompRh State.reset = .next State.reset.setOk := h _
    exact absurd (length_of_onLength_setOk (by decide) hr) (by decide)
  | compLux =>
    have hr : execCompLux State.reset = .next State.reset.setOk := h _
    exact absurd (length_of_onLength_setOk (by decide) hr) (by decide)
  | crcRh =>
    have hr : execCrcRh State.reset = .next State.reset.setOk := h _
    rcases crcRhWith_cases hr with ⟨hl, -⟩ | ⟨-, ht⟩
    · exact absurd hl (by decide)
    · exact absurd ht (setOk_ne_setErr (by decide))

/-! ## The obligations -/

/-- Settles O3: one lemma for each format, at each opcode, and the rows by `parses_iff_in_opcodeTable`. -/
theorem decodeFollowsTheDecodeRule : Obligations.DecodeFollowsTheDecodeRule := by
  unfold Obligations.DecodeFollowsTheDecodeRule
  refine ⟨parses_iff_in_opcodeTable, fun w s => ⟨?_, ?_, ?_, ?_, ?_, ?_, ?_, ?_, ?_, ?_, ?_, ?_⟩⟩
  · exact fun h => execute_formatN (parse_of_opc .nop h) rfl
  · exact fun h => execute_formatO (mk := .decBe16) (parse_of_opc (.decBe16 0) h) (fun _ => rfl) rfl
  · exact fun h => execute_formatO (mk := .decLe16) (parse_of_opc (.decLe16 0) h) (fun _ => rfl) rfl
  · exact fun h => execute_formatO (mk := .dec20) (parse_of_opc (.dec20 0) h) (fun _ => rfl) rfl
  · exact fun h => execute_formatN (parse_of_opc .toS16 h) rfl
  · exact fun h => execute_formatS (mk := .calLoad) (parse_of_opc (.calLoad 0) h) fun _ => rfl
  · exact fun h => execute_formatS (mk := .calRelease) (parse_of_opc (.calRelease 0) h) fun _ => rfl
  · exact fun h => execute_formatS (mk := .compPt) (parse_of_opc (.compPt 0) h) fun _ => rfl
  · exact fun h => execute_formatN (parse_of_opc .compRh h) rfl
  · exact fun h => execute_formatN (parse_of_opc .compLux h) rfl
  · exact fun h => execute_formatN (parse_of_opc .crcRh h) rfl
  · intro h
    refine execute_of_not_parsed fun i hp => ?_
    have hform := opc_and_zeros_of_parse hp
    simp only [List.mem_cons, List.not_mem_nil, or_false] at h hform
    omega

/-- Settles O5: a word with a reserved encoding does not parse, and NOP is the only command that only sets ERR to OK. -/
theorem reservedEncodingsRaiseIllegalCmd : Obligations.ReservedEncodingsRaiseIllegalCmd := by
  unfold Obligations.ReservedEncodingsRaiseIllegalCmd
  constructor
  · intro w s h
    refine execute_of_not_parsed fun i hp => ?_
    have hform := opc_and_zeros_of_parse hp
    simp only [List.mem_cons, List.not_mem_nil, or_false] at h hform
    omega
  · exact fun i => ⟨eq_nop_of_only_setOk, by rintro rfl s; rfl⟩

/-- Settles O6: the twelve words are the encodings of commands, so they decode to them where the slot exists, and each
illegal word fails one check of R75. -/
theorem encodingExamplesDecode : Obligations.EncodingExamplesDecode := by
  unfold Obligations.EncodingExamplesDecode
  refine ⟨fun cfg => ?_, by decide⟩
  have hslot : slotExists cfg 0 = true := slotExists_iff.2 (Nat.succ_pos _)
  refine ⟨decode_encode (i := .nop) rfl, decode_encode (i := .decBe16 3) rfl, decode_encode (i := .decLe16 0) rfl,
    decode_encode (i := .dec20 3) rfl, decode_encode (i := .toS16) rfl, decode_encode (i := .calLoad 0) hslot,
    fun h => decode_encode (i := .calLoad 1) (slotExists_iff.2 h), decode_encode (i := .calRelease 0) hslot,
    decode_encode (i := .compPt 0) hslot, decode_encode (i := .compRh) rfl, decode_encode (i := .compLux) rfl,
    decode_encode (i := .crcRh) rfl, decode_of_parse_error rfl, decode_of_parse_error rfl,
    decode_of_ill_formed (i := .decBe16 23) rfl rfl, fun h => ?_⟩
  have habsent : slotExists cfg 1 = false := by simp [slotExists, h]
  exact decode_of_ill_formed (i := .compPt 1) rfl habsent

end Sys2Proof.Machine
end

section
/-! The Register Codec: its conversions in terms of the signed and unsigned readings of a word (40_codec.md R101 to R105). -/

namespace Sys2Proof.Machine

/-! ## The signed 16-bit reading -/

/-- `to_signed16` (40_codec.md R104) is the two's complement reading of the 16 bits. -/
theorem toSigned16_eq_toInt (v : Half) : toSigned16 v = v.toInt := by
  rw [toSigned16, BitVec.toInt_eq_toNat_cond]
  split <;> split <;> omega

/-- Encoding undoes the signed reading. -/
@[simp] theorem enc16_toSigned16 (v : Half) : enc16 (toSigned16 v) = v := by
  rw [enc16, toSigned16_eq_toInt, BitVec.ofInt_toInt]

/-- The signed reading undoes the encoding of a number that 16 bits hold. -/
theorem toSigned16_enc16 {x : Int} (hlo : -32768 ≤ x) (hhi : x ≤ 32767) : toSigned16 (enc16 x) = x := by
  rw [toSigned16_eq_toInt, enc16]
  exact BitVec.toInt_ofInt_eq_self (by decide) hlo (Int.lt_add_one_of_le hhi)

/-- The signed reading of 16 bits fits in IRES. -/
theorem toInt_ofInt_toSigned16 (v : Half) : (BitVec.ofInt 32 (toSigned16 v)).toInt = toSigned16 v := by
  have hlo := v.le_toInt
  have hhi := v.toInt_lt
  rw [toSigned16_eq_toInt]
  exact BitVec.toInt_ofInt_eq_self (by decide) (by omega) (by omega)

/-- TO_S16 always completes, and IRES then reads as the signed value of IRES[15:0]. -/
theorem exec_toS16_ires (s : State) :
    ∃ t, exec .toS16 s = .next t ∧ t.ires.toInt = toSigned16 (s.ires.extractLsb' 0 16) :=
  ⟨_, rfl, toInt_ofInt_toSigned16 _⟩

/-! ## The packed 20-bit value -/

/-- The first two bytes of the packed value are a big-endian pair, and the third gives the low four bits. -/
theorem dec20_eq_be16_append (a b c : Byte) : dec20 a b c = be16 a b ++ c.extractLsb' 4 4 := rfl

/-- The high nibble of a byte, as a number. -/
theorem highNibble_toNat (c : Byte) : (c.extractLsb' 4 4).toNat = c.toNat / 16 := by
  rw [BitVec.extractLsb'_toNat, Nat.shiftRight_eq_div_pow]
  have hc := c.isLt
  omega

/-- The big-endian pair is embedded in the packed value, shifted left by 4 (40_codec.md R105). -/
theorem dec20_toNat (a b c : Byte) : (dec20 a b c).toNat = (be16 a b).toNat * 16 ||| c.toNat / 16 := by
  rw [dec20_eq_be16_append, BitVec.toNat_append, highNibble_toNat, Nat.shiftLeft_eq]

/-! ## The byte orders -/

/-- One pair of bytes, read in the other order. -/
theorem le16_eq_be16_swap (a b : Byte) : le16 a b = be16 b a := rfl

/-! ## The obligations -/

/-- Settles O27: TO_S16 leaves the signed reading in IRES, which `enc16` undoes and is undone by, and the 20-bit value is
the big-endian pair with a nibble appended. -/
theorem codecLawsHold : Obligations.CodecLawsHold := by
  unfold Obligations.CodecLawsHold
  refine ⟨fun s x hlo hhi hx => ?_, enc16_toSigned16, dec20_toNat, le16_eq_be16_swap⟩
  obtain ⟨t, ht, hires⟩ := exec_toS16_ires s
  refine ⟨t, ht, ?_⟩
  rw [hires, hx, toSigned16_enc16 hlo hhi]

end Sys2Proof.Machine
end

section
/-! The Calibration Store: a locked slot, and reading a coefficient back (41_calibration.md R112, R116). -/

namespace Sys2Proof.Machine

/-! ## Reading a coefficient back -/

/-- The register at CAL_s_k of a slot that exists reads that coefficient's readback (20_memory.md R40). -/
theorem State.readAt_cal (s : State) {slot : Fin 4} (k : Fin 12) (hx : slotExists s.cfg slot = true) :
    s.readAt (Reg.cal slot k).offset = (s.cal[slot]).readback k :=
  s.readAt_offset (r := .cal slot k) hx

theorem coefUnsigned_iff {k : Fin 12} : coefUnsigned k = true ↔ k = 0 ∨ k = 3 := by
  simp [coefUnsigned]

theorem CalSlot.readback_unsigned (c : CalSlot) {k : Fin 12} (hk : k = 0 ∨ k = 3) :
    c.readback k = (c.coef[k]).zeroExtend 32 := if_pos (coefUnsigned_iff.2 hk)

theorem CalSlot.readback_signed (c : CalSlot) {k : Fin 12} (hk : ¬(k = 0 ∨ k = 3)) :
    c.readback k = (c.coef[k]).signExtend 32 := if_neg (mt coefUnsigned_iff.1 hk)

/-- T1 and P1 keep their unsigned value in the 32 bits of the register. -/
theorem CalSlot.readback_toNat (c : CalSlot) {k : Fin 12} (hk : k = 0 ∨ k = 3) :
    (c.readback k).toNat = (c.coef[k]).toNat := by
  rw [c.readback_unsigned hk]
  exact BitVec.toNat_setWidth_of_le (by decide)

/-- The other coefficients keep their signed value in the 32 bits of the register. -/
theorem CalSlot.readback_toInt (c : CalSlot) {k : Fin 12} (hk : ¬(k = 0 ∨ k = 3)) :
    (c.readback k).toInt = (c.coef[k]).toInt := by
  rw [c.readback_signed hk]
  exact BitVec.toInt_signExtend_of_le (by decide)

/-! ## The obligations -/

/-- Settles O32: the read goes to the coefficient's register, and extending keeps the value of its type; slot 0, of the
example, exists under every parameter set. -/
theorem calibrationReadbackExtends : Obligations.CalibrationReadbackExtends := by
  unfold Obligations.CalibrationReadbackExtends
  constructor
  · intro s slot k hslot v
    have hread : v = (s.cal[slot]).readback k := s.readAt_cal k (slotExists_iff.2 hslot)
    rw [hread]
    split
    next hk => exact CalSlot.readback_toNat _ hk
    next hk => exact CalSlot.readback_toInt _ hk
  · intro s h0 h2 h3
    have hread (k : Fin 12) : s.readAt (Reg.cal 0 k).offset = (s.cal[0]).readback k :=
      s.readAt_cal k (slotExists_iff.2 (Nat.succ_pos _))
    refine ⟨(hread 0).trans ?_, (hread 2).trans ?_, (hread 3).trans ?_⟩
    · rw [CalSlot.readback_unsigned _ (.inl rfl)]
      exact congrArg (BitVec.zeroExtend 32) h0
    · rw [CalSlot.readback_signed _ (by decide)]
      exact congrArg (BitVec.signExtend 32) h2
    · rw [CalSlot.readback_unsigned _ (.inr rfl)]
      exact congrArg (BitVec.zeroExtend 32) h3

/-- Settles O29: VALID is checked before the length, so the answer of `execCalLoad_of_valid` does not depend on IBUF_LEN. -/
theorem calLoadOfAValidSlotIsLocked : Obligations.CalLoadOfAValidSlotIsLocked := by
  unfold Obligations.CalLoadOfAValidSlotIsLocked
  intro s slot hslot hv
  exact execCalLoad_of_valid (slotExists_iff.2 hslot) hv

end Sys2Proof.Machine
end

section
/-! The pressure/temperature compensation: its inputs as numbers, how far its intermediates reach, and COMP_PT on a sample it
takes (42_comp_pressure.md R120 to R124, R126). -/

namespace Sys2Proof.Machine

open F64

/-! ## Magnitudes below a power of two

R126's bounds are powers of two, so each operation of the chains adds or subtracts exponents. -/

namespace F64

/-- Finite, of magnitude at most 2^k. -/
def AtMostPow (x : F64) (k : Nat) : Prop := AtMost x (2 ^ k * one)

theorem AtMostPow.mono {x : F64} {j k : Nat} (h : AtMostPow x j) (hjk : j ≤ k) : AtMostPow x k :=
  AtMost.mono h (Nat.mul_le_mul_right _ (Nat.pow_le_pow_right Nat.two_pos hjk))

theorem AtMostPow.finite {x : F64} {k : Nat} (h : AtMostPow x k) : x.finite = true := AtMost.finite h

theorem onGrid_pow_mul_one (k : Nat) : OnGrid (2 ^ k * one) := by
  unfold one
  rw [← pow_add]
  exact onGrid_pow _

theorem pow_mul_one_lt_limit {k : Nat} (h : k < 1024) : 2 ^ k * one < limit := by
  unfold one limit
  rw [← pow_add]
  exact pow_lt_pow_right₀ Nat.one_lt_two (by omega)

theorem atMostPow_lit {n k : Nat} (h : n ≤ 2 ^ k) : AtMostPow (lit n) k :=
  (atMost_lit n).mono (Nat.mul_le_mul_right _ h)

theorem atMostPow_i2f {n : Int} {k : Nat} (h : n.natAbs ≤ 2 ^ k) : AtMostPow (i2f n) k := atMost_i2f h

theorem atMostPow_fadd {x y : F64} {k : Nat} (hx : AtMostPow x k) (hy : AtMostPow y k) (hk : k + 1 < 1024) :
    AtMostPow (fadd x y) (k + 1) :=
  atMost_fadd hx hy (onGrid_pow_mul_one _) (pow_mul_one_lt_limit hk) (by rw [pow_succ]; linarith)

theorem atMostPow_fsub {x y : F64} {k : Nat} (hx : AtMostPow x k) (hy : AtMostPow y k) (hk : k + 1 < 1024) :
    AtMostPow (fsub x y) (k + 1) := atMostPow_fadd hx hy.neg hk

theorem atMostPow_fmul {x y : F64} {j k : Nat} (hx : AtMostPow x j) (hy : AtMostPow y k) (hjk : j + k < 1024) :
    AtMostPow (fmul x y) (j + k) := by
  refine atMost_fmul hx hy (onGrid_pow_mul_one _) (pow_mul_one_lt_limit hjk) (Nat.le_of_eq ?_)
  rw [pow_add]
  ring

/-- Division by a literal that reaches 2^j takes j from the exponent. -/
theorem atMostPow_fdiv_lit {x : F64} {n j k : Nat} (hx : AtMostPow x (k + j)) (hn : 2 ^ j ≤ n) (hk : k < 1024) :
    AtMostPow (fdiv x (lit n)) k := by
  refine atMost_fdiv hx (Nat.mul_le_mul_right one hn) (Nat.mul_pos (Nat.two_pow_pos j) one_pos) (onGrid_pow_mul_one _)
    (pow_mul_one_lt_limit hk) (Nat.le_of_eq ?_)
  rw [pow_add]
  ring

/-- The square term has one bound in both groupings. -/
theorem atMostPow_sq (g : SqGroup) {c x : F64} {i k : Nat} (hc : AtMostPow c i) (hx : AtMostPow x k)
    (hik : i + (k + k) < 1024) : AtMostPow (sq g c x) (i + (k + k)) := by
  cases g with
  | squareFirst => exact atMostPow_fmul hc (atMostPow_fmul hx hx (by omega)) hik
  | leftToRight =>
    rw [← Nat.add_assoc] at hik ⊢
    exact atMostPow_fmul (atMostPow_fmul hc hx (by omega)) hx hik

/-- SQ_GROUP chooses one of two groupings (R123). -/
theorem sq_eq_ite (g : SqGroup) (c x : F64) :
    sq g c x = if g = .squareFirst then fmul c (fmul x x) else fmul (fmul c x) x := by
  cases g <;> rfl

/-! ## Zeros -/

theorem feq_lit_zero_iff {x : F64} : feq x (lit 0) = true ↔ ∃ s, x = .fin s 0 := by
  cases x <;> simp [feq, lit]

theorem feq_fin_zero (s : Bool) : feq (.fin s 0) (lit 0) = true := feq_lit_zero_iff.2 ⟨s, rfl⟩

theorem round_zero {s : Bool} {den : Nat} (hd : 0 < den) : round s 0 den = .fin s 0 := by
  have hlimit : 0 < limit := (Nat.zero_le _).trans_lt (pow_mul_one_lt_limit (k := 0) (by norm_num))
  have h := round_exact (s := s) hd (dvd_zero _) hlimit
  rwa [Nat.zero_mul] at h

/-- A zero times a finite value is a zero. -/
theorem fmul_zero_left {x y : F64} (hx : feq x (lit 0) = true) (hy : y.finite = true) :
    feq (fmul x y) (lit 0) = true := by
  obtain ⟨s, rfl⟩ := feq_lit_zero_iff.1 hx
  cases y with
  | fin t n => rw [fmul, Nat.zero_mul, round_zero one_pos]; exact feq_fin_zero _
  | nan | inf => exact absurd hy (by simp [finite])

/-- A finite value times a zero is a zero. -/
theorem fmul_zero_right {x y : F64} (hx : x.finite = true) (hy : feq y (lit 0) = true) :
    feq (fmul x y) (lit 0) = true := by
  obtain ⟨t, rfl⟩ := feq_lit_zero_iff.1 hy
  cases x with
  | fin s m => rw [fmul, Nat.mul_zero, round_zero one_pos]; exact feq_fin_zero _
  | nan | inf => exact absurd hx (by simp [finite])

theorem toBits_lit_zero : (lit 0).toBits = 0x0000000000000000#64 := by
  rw [lit, Nat.zero_mul]
  decide

end F64

/-! ## The inputs (R121) -/

/-- T1 and P1 are read unsigned. -/
theorem CalSlot.num_unsigned (c : CalSlot) {k : Fin 12} (hk : k = 0 ∨ k = 3) : c.num k = i2f (c.coef[k]).toNat := by
  rw [CalSlot.num, CalSlot.value, if_pos (coefUnsigned_iff.2 hk)]

/-- The other coefficients are read signed. -/
theorem CalSlot.num_signed (c : CalSlot) {k : Fin 12} (hk : ¬(k = 0 ∨ k = 3)) : c.num k = i2f (c.coef[k]).toInt := by
  rw [CalSlot.num, CalSlot.value, if_neg (mt coefUnsigned_iff.1 hk), toSigned16_eq_toInt]

/-- A coefficient of either type fits in 16 bits. -/
theorem CalSlot.num_atMostPow (c : CalSlot) (k : Fin 12) : AtMostPow (c.num k) 16 := by
  by_cases hk : k = 0 ∨ k = 3
  · rw [c.num_unsigned hk]
    exact atMostPow_i2f (c.coef[k]).isLt.le
  · rw [c.num_signed hk]
    have hlo := (c.coef[k]).le_toInt
    have hhi := (c.coef[k]).toInt_lt
    exact atMostPow_i2f (by omega)

theorem CalSlot.num_finite (c : CalSlot) (k : Fin 12) : (c.num k).finite = true := (c.num_atMostPow k).finite

/-- The 20-bit value as the sum of its three bytes' shares (40_codec.md R103). -/
theorem dec20_toNat_sum (a b c : Byte) : (dec20 a b c).toNat = 4096 * a.toNat + 16 * b.toNat + c.toNat / 16 := by
  have hb := b.isLt
  have hc : c.toNat / 16 < 2 ^ 4 := by have := c.isLt; omega
  rw [dec20_eq_be16_append, be16, BitVec.toNat_append, BitVec.toNat_append, highNibble_toNat,
    ← Nat.shiftLeft_add_eq_or_of_lt hc, ← Nat.shiftLeft_add_eq_or_of_lt hb, Nat.shiftLeft_eq, Nat.shiftLeft_eq]
  omega

/-- The packed value at IBUF[i], of three bytes in the buffer. -/
theorem State.dec20At_toNat (s : State) {i : Nat} (h : i + 2 < 24) :
    (s.dec20At i).toNat = 4096 * (s.ibuf[i]).toNat + 16 * (s.ibuf[i + 1]).toNat + (s.ibuf[i + 2]).toNat / 16 := by
  rw [State.dec20At, dec20_toNat_sum, byte_of_lt s (by omega), byte_of_lt s (by omega), byte_of_lt s h]

/-! ## The chains -/

/-- A coarse form of R126's bound on t_fine: differences are bounded as sums, and each coefficient by 2^16. -/
theorem CalSlot.tFine_atMostPow (c : CalSlot) (adcT : BitVec 20) : AtMostPow (c.tFine adcT) 25 := by
  have hraw : AtMostPow (i2f adcT.toNat) 20 := atMostPow_i2f adcT.isLt.le
  have ha : AtMostPow (fsub (fdiv (i2f adcT.toNat) (lit 16384)) (fdiv (c.num 0) (lit 1024))) 7 :=
    atMostPow_fsub (atMostPow_fdiv_lit (j := 14) hraw (by norm_num) (by norm_num))
      (atMostPow_fdiv_lit (j := 10) (c.num_atMostPow 0) (by norm_num) (by norm_num)) (by norm_num)
  have hd : AtMostPow (fsub (fdiv (i2f adcT.toNat) (lit 131072)) (fdiv (c.num 0) (lit 8192))) 4 :=
    atMostPow_fsub (atMostPow_fdiv_lit (j := 17) hraw (by norm_num) (by norm_num))
      (atMostPow_fdiv_lit (j := 13) (c.num_atMostPow 0) (by norm_num) (by norm_num)) (by norm_num)
  have hv1 := atMostPow_fmul ha (c.num_atMostPow 1) (by norm_num)
  have hv2 := atMostPow_fmul (atMostPow_fmul hd hd (by norm_num)) (c.num_atMostPow 2) (by norm_num)
  exact atMostPow_fadd (hv1.mono (by norm_num)) hv2 (by norm_num)

theorem presQ1_atMostPow {tf : F64} (h : AtMostPow tf 25) : AtMostPow (presQ1 tf) 25 :=
  atMostPow_fsub (atMostPow_fdiv_lit (j := 1) h (by norm_num) (by norm_num)) (atMostPow_lit (by norm_num)) (by norm_num)

/-- q1b, the step of `presDivisor` before its last line (R123). -/
def presQ1b (g : SqGroup) (c : CalSlot) (q1 : F64) : F64 :=
  fdiv (fadd (fdiv (sq g (c.num 5) q1) (lit 524288)) (fmul (c.num 4) q1)) (lit 524288)

/-- The divisor's first factor, 1 + q1b/32768 (R123). -/
def presFactor (g : SqGroup) (c : CalSlot) (q1 : F64) : F64 := fadd (lit 1) (fdiv (presQ1b g c q1) (lit 32768))

theorem presDivisor_eq (g : SqGroup) (c : CalSlot) (q1 : F64) :
    presDivisor g c q1 = fmul (presFactor g c q1) (c.num 3) := rfl

/-- The first factor is finite whenever q1 keeps its bound, in both groupings (R126). -/
theorem presFactor_finite (g : SqGroup) (c : CalSlot) {q1 : F64} (h : AtMostPow q1 25) :
    (presFactor g c q1).finite = true := by
  have hsq : AtMostPow (fdiv (sq g (c.num 5) q1) (lit 524288)) 47 :=
    atMostPow_fdiv_lit (j := 19) (atMostPow_sq g (c.num_atMostPow 5) h (by norm_num)) (by norm_num) (by norm_num)
  have hmul := atMostPow_fmul (c.num_atMostPow 4) h (by norm_num)
  have hq1b : AtMostPow (presQ1b g c q1) 29 :=
    atMostPow_fdiv_lit (j := 19) (atMostPow_fadd hsq (hmul.mono (by norm_num)) (by norm_num)) (by norm_num) (by norm_num)
  have hterm : AtMostPow (fdiv (presQ1b g c q1) (lit 32768)) 14 :=
    atMostPow_fdiv_lit (j := 15) hq1b (by norm_num) (by norm_num)
  exact (atMostPow_fadd (atMostPow_lit (by norm_num)) hterm (by norm_num)).finite

/-- A zero first factor makes the divisor zero: P1 is finite. -/
theorem presDivisor_zero_of_factor {g : SqGroup} {c : CalSlot} {q1 : F64} (h : feq (presFactor g c q1) (lit 0) = true) :
    feq (presDivisor g c q1) (lit 0) = true :=
  fmul_zero_left h (c.num_finite 3)

/-- P1 = 0 makes the divisor zero: the first factor is finite. -/
theorem presDivisor_zero_of_P1 (g : SqGroup) {c : CalSlot} (adcT : BitVec 20) (h : c.coef[3] = 0#16) :
    feq (presDivisor g c (presQ1 (c.tFine adcT))) (lit 0) = true := by
  have hP1 : c.num 3 = .fin false 0 := by
    rw [c.num_unsigned (.inr rfl)]
    simp [h, i2f]
  rw [presDivisor_eq, hP1]
  exact fmul_zero_right (presFactor_finite g c (presQ1_atMostPow (c.tFine_atMostPow adcT))) (feq_fin_zero false)

/-- The division-by-zero guard (R124). -/
theorem CalSlot.pressure_of_zero_divisor {g : SqGroup} {c : CalSlot} {adcT adcP : BitVec 20}
    (h : feq (presDivisor g c (presQ1 (c.tFine adcT))) (lit 0) = true) : c.pressure g adcT adcP = lit 0 := if_pos h

/-! ## COMP_PT on a sample it takes (R120) -/

/-- The state after COMP_PT on slot `slot` and the six bytes in IBUF. -/
def State.afterCompPt (s : State) (slot : Fin 4) : State :=
  let c := s.cal[slot]
  ((s.setResValid 0#9).writePt (temperature (c.tFine (s.dec20At 0)))
    (c.pressure s.cfg.sqGroup (s.dec20At 0) (s.dec20At 3)) (c.tFine (s.dec20At 0))).setOk

section
variable (s : State) (slot : Fin 4)

theorem State.afterCompPt_temp :
    (s.afterCompPt slot).res[0] = (temperature ((s.cal[slot]).tFine (s.dec20At 0))).toBits := State.writePt_temp _ _ _ _

theorem State.afterCompPt_pres :
    (s.afterCompPt slot).res[1] = ((s.cal[slot]).pressure s.cfg.sqGroup (s.dec20At 0) (s.dec20At 3)).toBits :=
  State.writePt_pres _ _ _ _

theorem State.afterCompPt_tfine : (s.afterCompPt slot).res[8] = ((s.cal[slot]).tFine (s.dec20At 0)).toBits :=
  State.writePt_tfine _ _ _ _

end

/-- COMP_PT completes on a valid slot with six bytes. -/
theorem exec_compPt_completes {s : State} {slot : Fin 4} (hx : slot.val < s.cfg.nCalSlots)
    (hv : (s.cal[slot]).valid = true) (hl : s.ibufLen = 6#6) :
    exec (.compPt slot) s = .next (s.afterCompPt slot) := by
  show execCompPt slot s = _
  have hlen : (s.setResValid 0#9).ibufLen.toNat = 6 := by rw [State.setResValid_ibufLen, hl]; rfl
  rw [execCompPt, onSlot_exists (slotExists_iff.2 hx), if_pos hv, onLength_run hlen]
  rfl

/-! ## The obligations -/

/-- Settles O34: the inputs of the model's chains are the statement's numbers and its square term is the statement's SQ, so
each function of the chains is one of the statement's names; the frame is that of `State.afterCompPt`. -/
theorem compPtComputesTheTwoChains : Obligations.CompPtComputesTheTwoChains := by
  unfold Obligations.CompPtComputesTheTwoChains
  intro s slot hx hv hl num u i b adcT adcP SQ a v1 d v2 tf temp q1 q2 q2b q1b q1c p0 p1 r1 r2 pres
  have hu (k : Fin 12) (hk : k = 0 ∨ k = 3) : (s.cal[slot]).num k = u k := (s.cal[slot]).num_unsigned hk
  have hi (k : Fin 12) (hk : ¬(k = 0 ∨ k = 3)) : (s.cal[slot]).num k = i k := (s.cal[slot]).num_signed hk
  have hT : i2f (s.dec20At 0).toNat = adcT := by rw [s.dec20At_toNat (by norm_num)]; rfl
  have hP : i2f (s.dec20At 3).toNat = adcP := by rw [s.dec20At_toNat (by norm_num)]; rfl
  have hSQ (c x : F64) : sq s.cfg.sqGroup c x = SQ c x := sq_eq_ite _ c x
  have htf : (s.cal[slot]).tFine (s.dec20At 0) = tf := by
    rw [CalSlot.tFine, hT, hu 0 (.inl rfl), hi 1 (by decide), hi 2 (by decide)]
    rfl
  have hq1 : presQ1 tf = q1 := rfl
  have hq2b : presQ2 s.cal[slot] q1 = q2b := by
    rw [presQ2, hi 8 (by decide), hi 7 (by decide), hi 6 (by decide)]
  have hq1c : presDivisor s.cfg.sqGroup s.cal[slot] q1 = q1c := by
    rw [presDivisor, hSQ, hi 5 (by decide), hi 4 (by decide), hu 3 (.inr rfl)]
  have hbody : presBody s.cfg.sqGroup s.cal[slot] q2b q1c adcP =
      fdiv (fadd p1 (fdiv (fadd (fadd r1 r2) (i 9)) (lit 16))) (lit 100) := by
    rw [presBody, hSQ, hi 11 (by decide), hi 10 (by decide), hi 9 (by decide)]
  have hpres : (s.cal[slot]).pressure s.cfg.sqGroup (s.dec20At 0) (s.dec20At 3) = pres := by
    rw [CalSlot.pressure, htf, hP, pressure, hq1, hq2b, hq1c, hbody]
  refine ⟨(s.afterCompPt slot).res, exec_compPt_completes hx hv hl, ?_, ?_, ?_, fun k h2 h7 => ?_⟩
  · rw [s.afterCompPt_temp, htf]; rfl
  · rw [s.afterCompPt_pres, hpres]
  · rw [s.afterCompPt_tfine, htf]
  · exact State.writePt_other _ _ _ _ k ⟨h2, h7⟩

/-- Settles O36: the guard's branch is taken where the divisor is zero, and a product is zero when one factor is zero and the
other finite. R126's bounds, in a coarse form, are what keep the first factor finite when P1 = 0. -/
theorem zeroDivisorGivesPressureZero : Obligations.ZeroDivisorGivesPressureZero := by
  unfold Obligations.ZeroDivisorGivesPressureZero
  refine ⟨?_, fun g c adcT h => presDivisor_zero_of_P1 g adcT h, ?_⟩
  · intro s slot hx hv hl c tf hz
    have hpres : c.pressure s.cfg.sqGroup (s.dec20At 0) (s.dec20At 3) = lit 0 := CalSlot.pressure_of_zero_divisor hz
    have hpresent : validPt.getLsbD 1 = true := by decide
    refine ⟨_, exec_compPt_completes hx hv hl, rfl, hpresent, ?_, s.afterCompPt_temp slot, s.afterCompPt_tfine slot⟩
    rw [s.afterCompPt_pres, hpres, toBits_lit_zero]
  · intro g c q1 q1b h
    exact presDivisor_zero_of_factor h

end Sys2Proof.Machine
end

section
/-! Binary64 beyond one rounding: a finite value as an integer number of units, in which sums are monotone, and the encoding
read back (00_scope.md R12). -/

namespace Sys2Proof.Machine.F64

/-! ## Signed magnitudes -/

theorem signed_not (s : Bool) (m : Nat) : signed (!s) m = -signed s m := by cases s <;> simp [signed]

theorem signed_add (s : Bool) (m n : Nat) : signed s (m + n) = signed s m + signed s n := by
  cases s <;> simp [signed, add_comm]

theorem signed_sub (s : Bool) {m n : Nat} (h : n ≤ m) : signed s (m - n) = signed s m - signed s n := by
  rw [eq_sub_iff_add_eq, ← signed_add, Nat.sub_add_cancel h]

theorem signed_inj {s : Bool} {m n : Nat} : signed s m = signed s n ↔ m = n := by cases s <;> simp [signed]

/-! ## Rounding with a sign -/

theorem round_eq_ite (neg : Bool) (num den : Nat) :
    round neg num den = if roundMag num den < limit then .fin neg (roundMag num den) else .inf neg := rfl

theorem round_eq_fin {neg : Bool} {num den : Nat} (h : roundMag num den < limit) :
    round neg num den = .fin neg (roundMag num den) := if_pos h

/-- A rounded value that is finite has the sign it was rounded with, and binary64 can hold its magnitude. -/
theorem round_eq_fin_imp {neg s : Bool} {num den m : Nat} (h : round neg num den = .fin s m) :
    neg = s ∧ roundMag num den = m ∧ m < limit := by
  rw [round_eq_ite] at h
  split at h
  next hlt =>
    cases h
    exact ⟨rfl, rfl, hlt⟩
  next => cases h

/-- Rounding to the nearest never makes a nonzero integer number of units zero. -/
theorem roundMag_eq_zero {num : Nat} (h : roundMag num 1 = 0) : num = 0 := by
  by_contra hne
  have : 1 ≤ roundMag num 1 := le_roundMag Nat.one_pos (onGrid_pow 0) (by omega)
  omega

theorem finite_iff {x : F64} : x.finite = true ↔ ∃ s m, x = .fin s m := by
  cases x <;> simp [finite]

/-- A finite sum has finite operands. -/
theorem fadd_eq_fin_operands {x y : F64} {s : Bool} {m : Nat} (h : fadd x y = .fin s m) :
    (∃ s m, x = .fin s m) ∧ ∃ t n, y = .fin t n := by
  cases x with
  | nan => cases h
  | inf s =>
    cases y with
    | nan => cases h
    | inf t => simp only [fadd] at h; split at h <;> cases h
    | fin t n => cases h
  | fin s m =>
    cases y with
    | nan => cases h
    | inf t => cases h
    | fin t n => exact ⟨⟨s, m, rfl⟩, t, n, rfl⟩

/-- The exact sum of two finite values, rounded once; an exact zero sum of opposite signs is +0.0 (R12). -/
theorem fadd_fin_cases (s t : Bool) (m n : Nat) :
    (signed s m + signed t n = 0 ∧ fadd (.fin s m) (.fin t n) = .fin false 0) ∨
      ∃ u k, signed u k = signed s m + signed t n ∧ (k = 0 → s = u ∧ t = u) ∧
        fadd (.fin s m) (.fin t n) = round u k 1 := by
  by_cases hst : s = t
  · subst hst
    exact .inr ⟨s, m + n, signed_add s m n, fun _ => ⟨rfl, rfl⟩, if_pos rfl⟩
  obtain rfl : t = !s := Bool.eq_not.2 (Ne.symm hst)
  simp only [fadd, if_neg hst, signed_not, ← sub_eq_add_neg, sub_eq_zero, signed_inj]
  rcases Nat.lt_trichotomy m n with hlt | rfl | hlt
  · exact .inr ⟨!s, n - m, by rw [signed_not, signed_sub s hlt.le, neg_sub], by omega,
      by rw [if_neg hlt.ne, if_neg hlt.not_gt]⟩
  · exact .inl ⟨rfl, if_pos rfl⟩
  · exact .inr ⟨s, m - n, signed_sub s hlt.le, by omega, by rw [if_neg hlt.ne', if_pos hlt]⟩

/-- A sum is -0.0 only where both terms are: an exact zero sum of opposite signs is +0.0, and nothing else rounds to zero. -/
theorem fadd_eq_negZero {x y : F64} (h : fadd x y = .fin true 0) : x = .fin true 0 ∧ y = .fin true 0 := by
  obtain ⟨⟨s, m, rfl⟩, t, n, rfl⟩ := fadd_eq_fin_operands h
  rcases fadd_fin_cases s t m n with ⟨-, he⟩ | ⟨u, k, hk, hsign, he⟩
  · cases he.symm.trans h
  · obtain ⟨rfl, hr, -⟩ := round_eq_fin_imp (he.symm.trans h)
    obtain rfl := roundMag_eq_zero hr
    obtain ⟨rfl, rfl⟩ := hsign rfl
    have hsum : (0 : Int) = -m + -n := hk
    obtain ⟨rfl, rfl⟩ : m = 0 ∧ n = 0 := by omega
    exact ⟨rfl, rfl⟩

/-! ## Values in units of 2^-1074 -/

/-- A finite value in units of 2^-1074; 0 for the others. -/
def units : F64 → Int
  | .nan => 0
  | .inf _ => 0
  | .fin s m => signed s m

theorem flt_eq_decide_units {x y : F64} (hx : x.finite = true) (hy : y.finite = true) :
    flt x y = decide (x.units < y.units) := by
  cases x with
  | nan | inf => cases hx
  | fin s m =>
    cases y with
    | nan | inf => cases hy
    | fin t n => rfl

/-- Among finite values, not less is at least. -/
theorem flt_eq_false_iff {x y : F64} (hx : x.finite = true) (hy : y.finite = true) :
    flt x y = false ↔ y.units ≤ x.units := by
  rw [flt_eq_decide_units hx hy, decide_eq_false_iff_not, not_lt]

@[simp] theorem units_fin_false (m : Nat) : (fin false m).units = m := rfl

@[simp] theorem units_lit (n : Nat) : (lit n).units = n * one := by simp [lit]

/-- The integer number of units that an exact one is rounded to, the exponent unbounded. -/
def roundUnits (z : Int) : Int := signed (decide (z < 0)) (roundMag z.natAbs 1)

theorem roundUnits_signed (s : Bool) (m : Nat) : roundUnits (signed s m) = signed s (roundMag m 1) := by
  cases s with
  | false => simp [roundUnits, signed]
  | true =>
    rcases Nat.eq_zero_or_pos m with rfl | hm
    · have h0 : roundMag 0 1 = 0 := roundMag_of_onGrid (y := 0) Nat.one_pos (dvd_zero _)
      simp [roundUnits, signed, h0]
    · simp [roundUnits, signed, hm]

theorem roundUnits_of_nonneg {z : Int} (h : 0 ≤ z) : roundUnits z = roundMag z.natAbs 1 := by
  rw [roundUnits, decide_eq_false (not_lt.2 h)]
  rfl

theorem roundUnits_of_neg {z : Int} (h : z < 0) : roundUnits z = -(roundMag z.natAbs 1 : Int) := by
  rw [roundUnits, decide_eq_true h]
  rfl

/-- Rounding is monotone across the signs, too. -/
theorem roundUnits_mono {a b : Int} (h : a ≤ b) : roundUnits a ≤ roundUnits b := by
  have hmag {m n : Nat} (hmn : m ≤ n) : roundMag m 1 ≤ roundMag n 1 :=
    roundMag_mono Nat.one_pos Nat.one_pos (Nat.mul_le_mul_right 1 hmn)
  rcases lt_or_ge b 0 with hb | hb
  · have hab := hmag (show b.natAbs ≤ a.natAbs by omega)
    rw [roundUnits_of_neg hb, roundUnits_of_neg (h.trans_lt hb)]
    omega
  rcases lt_or_ge a 0 with ha | ha
  · rw [roundUnits_of_neg ha, roundUnits_of_nonneg hb]
    omega
  · have hab := hmag (show a.natAbs ≤ b.natAbs by omega)
    rw [roundUnits_of_nonneg ha, roundUnits_of_nonneg hb]
    omega

/-- An integer that binary64 can hold is rounded to itself. -/
theorem roundUnits_of_onGrid {z : Int} (h : OnGrid z.natAbs) : roundUnits z = z := by
  have hm : roundMag z.natAbs 1 = z.natAbs := by simpa using roundMag_of_onGrid Nat.one_pos h
  rcases lt_or_ge z 0 with hz | hz
  · rw [roundUnits_of_neg hz, hm]
    omega
  · rw [roundUnits_of_nonneg hz, hm]
    omega

/-- A value rounded from an integer number of units, as a number of units. -/
theorem units_round {neg : Bool} {num : Nat} (h : (round neg num 1).finite = true) :
    (round neg num 1).units = roundUnits (signed neg num) := by
  rw [roundUnits_signed]
  rw [round_eq_ite] at h ⊢
  split at h
  next hlt => rw [if_pos hlt, units]
  next => cases h

/-- A finite sum is the exact one, rounded. -/
theorem units_fadd {x y : F64} (h : (fadd x y).finite = true) : (fadd x y).units = roundUnits (x.units + y.units) := by
  obtain ⟨r, k, hr⟩ := finite_iff.1 h
  obtain ⟨⟨s, m, rfl⟩, t, n, rfl⟩ := fadd_eq_fin_operands hr
  rcases fadd_fin_cases s t m n with ⟨hsum, he⟩ | ⟨u, k, hk, -, he⟩
  · rw [he, units, units, units, hsum]
    exact (roundUnits_signed false 0).symm
  · rw [he] at h ⊢
    rw [units_round h, hk, units, units]

/-! ## Values that binary64 can hold -/

/-- Where finite, of a magnitude that binary64 can hold. -/
def Holdable (x : F64) : Prop := ∀ s m, x = .fin s m → OnGrid m ∧ m < limit

theorem holdable_fin {s : Bool} {m : Nat} (hm : OnGrid m) (hl : m < limit) : Holdable (.fin s m) := by
  intro _ _ h
  cases h
  exact ⟨hm, hl⟩

theorem one_eq : one = 2 ^ 1074 := by unfold one; rfl

theorem limit_eq : limit = 2 ^ 2098 := by unfold limit; rfl

theorem limit_pos : 0 < limit := by unfold limit; positivity

theorem holdable_zero (s : Bool) : Holdable (.fin s 0) := holdable_fin (dvd_zero _) limit_pos

theorem holdable_round (neg : Bool) {num den : Nat} (hd : 0 < den) : Holdable (round neg num den) := by
  intro s m h
  obtain ⟨-, rfl, hl⟩ := round_eq_fin_imp h
  exact ⟨onGrid_roundMag num den hd, hl⟩

theorem holdable_fadd (x y : F64) : Holdable (fadd x y) := by
  intro r k h
  obtain ⟨⟨s, m, rfl⟩, t, n, rfl⟩ := fadd_eq_fin_operands h
  rcases fadd_fin_cases s t m n with ⟨-, he⟩ | ⟨u, j, -, -, he⟩ <;> rw [he] at h
  · exact holdable_zero false r k h
  · exact holdable_round u Nat.one_pos r k h

theorem lit_mag_lt_limit {n : Nat} (h : n < 2 ^ 53) : n * one < limit :=
  (Nat.mul_lt_mul_of_pos_right h one_pos).trans (pow_mul_one_lt_limit (by norm_num))

/-- The natural numbers the block converts and the literals are held exactly (R12, D15). -/
theorem holdable_lit {n : Nat} (h : n < 2 ^ 53) : Holdable (lit n) := holdable_fin (onGrid_int h) (lit_mag_lt_limit h)

theorem i2f_natCast (n : Nat) : i2f n = lit n := by simp [i2f, lit]

/-! ## The encoding read back -/

/-- A magnitude on the grid is subnormal, or a significand of 53 bits times a power of two. -/
theorem OnGrid.cases {m : Nat} (h : OnGrid m) : m < 2 ^ 52 ∨ ∃ q k, m = q * 2 ^ k ∧ 2 ^ 52 ≤ q ∧ q < 2 ^ 53 := by
  rcases Nat.lt_or_ge m (2 ^ 52) with hlt | hge
  · exact .inl hlt
  have hlog : 52 ≤ Nat.log2 m := (Nat.le_log2 (by omega)).2 hge
  obtain ⟨q, hq⟩ := h
  rw [spacing, mul_comm] at hq
  set k := Nat.log2 m - 52 with hk
  have hlo : 2 ^ 52 * 2 ^ k ≤ q * 2 ^ k := by
    rw [← hq, ← pow_add, hk, Nat.add_sub_cancel' hlog]
    exact Nat.log2_self_le (by omega)
  have hhi : q * 2 ^ k < 2 ^ 53 * 2 ^ k := by
    rw [← hq, ← pow_add, show 53 + k = Nat.log2 m + 1 by omega]
    exact Nat.lt_log2_self
  exact .inr ⟨q, k, hq, Nat.le_of_mul_le_mul_right hlo (Nat.two_pow_pos k), Nat.lt_of_mul_lt_mul_right hhi⟩

theorem exponent_lt_of_lt_limit {q k : Nat} (hq : 2 ^ 52 ≤ q) (h : q * 2 ^ k < limit) : k < 2046 := by
  have hpow : 2 ^ (52 + k) < 2 ^ 2098 := by
    rw [pow_add, ← limit_eq]
    exact (Nat.mul_le_mul_right _ hq).trans_lt h
  have := (Nat.pow_lt_pow_iff_right Nat.one_lt_two).1 hpow
  omega

theorem magBits_subnormal {m : Nat} (h : m < 2 ^ 52) : magBits m = m := by
  have hlog : Nat.log2 m - 52 = 0 := by
    rcases Nat.eq_zero_or_pos m with rfl | hpos
    · simp
    · have := (Nat.log2_lt (by omega)).2 h
      omega
  simp [magBits, hlog]

theorem magBits_normal {q : Nat} (k : Nat) (hlo : 2 ^ 52 ≤ q) (hhi : q < 2 ^ 53) :
    magBits (q * 2 ^ k) = k * 2 ^ 52 + q := by
  have hlog : Nat.log2 (q * 2 ^ k) = 52 + k := by
    refine log2_of_bounds ?_ ?_
    · rw [pow_add]; exact Nat.mul_le_mul_right _ hlo
    · rw [show 52 + k + 1 = 53 + k by omega, pow_add]; exact Nat.mul_lt_mul_of_pos_right hhi (Nat.two_pow_pos k)
  simp only [magBits, hlog, Nat.add_sub_cancel_left, Nat.mul_div_cancel q (Nat.two_pow_pos k)]

theorem signPart_eq (s : Bool) : signPart s = s.toNat * 2 ^ 63 := by cases s <;> rfl

theorem toBits_fin (s : Bool) (m : Nat) : toBits (.fin s m) = BitVec.ofNat 64 (signPart s + magBits m) := rfl

/-- A pattern put together from its fields, read back. -/
theorem ofBits_fields (s : Bool) {e f : Nat} (he : e < 2047) (hf : f < 2 ^ 52) :
    ofBits (BitVec.ofNat 64 (signPart s + (e * 2 ^ 52 + f))) =
      if e = 0 then .fin s f else .fin s ((2 ^ 52 + f) * 2 ^ (e - 1)) := by
  have hs := s.toNat_le
  set b : DWord := BitVec.ofNat 64 (signPart s + (e * 2 ^ 52 + f)) with hb
  have hn : b.toNat = s.toNat * 2 ^ 63 + (e * 2 ^ 52 + f) := by
    rw [hb, BitVec.toNat_ofNat, signPart_eq]
    omega
  have hsign : b.getLsbD 63 = s := by
    have htop : b.toNat / 2 ^ 63 % 2 = s.toNat := by omega
    rw [BitVec.getLsbD, Nat.testBit_eq_decide_div_mod_eq, htop]
    cases s <;> rfl
  have hexp : (b.extractLsb' 52 11).toNat = e := by
    rw [BitVec.extractLsb'_toNat, Nat.shiftRight_eq_div_pow]
    omega
  have hfrac : (b.extractLsb' 0 52).toNat = f := by
    rw [BitVec.extractLsb'_toNat, Nat.shiftRight_zero]
    omega
  simp only [ofBits, hsign, hexp, hfrac, if_neg he.ne]

/-- The encoding of a finite value that binary64 can hold reads back as that value (R12). -/
theorem ofBits_toBits {x : F64} (hx : x.finite = true) (h : Holdable x) : ofBits x.toBits = x := by
  obtain ⟨s, m, rfl⟩ := finite_iff.1 hx
  obtain ⟨hm, hl⟩ := h s m rfl
  rw [toBits_fin]
  rcases hm.cases with hlt | ⟨q, k, rfl, hlo, hhi⟩
  · have hbits : magBits m = 0 * 2 ^ 52 + m := by rw [magBits_subnormal hlt]; omega
    rw [hbits, ofBits_fields s (by norm_num) hlt, if_pos rfl]
  · have hk : k < 2046 := exponent_lt_of_lt_limit hlo hl
    have hbits : magBits (q * 2 ^ k) = (k + 1) * 2 ^ 52 + (q - 2 ^ 52) := by
      rw [magBits_normal k hlo hhi]
      omega
    rw [hbits, ofBits_fields s (by omega) (by omega), if_neg k.succ_ne_zero, Nat.add_sub_cancel' hlo,
      Nat.add_sub_cancel]

/-- The top bit of a finite value's pattern is the value's sign. -/
theorem msb_eq_signbit {b : DWord} (h : (ofBits b).finite = true) : b.msb = (ofBits b).signbit := by
  rw [BitVec.msb_eq_getLsbD_last]
  simp only [ofBits] at h ⊢
  split_ifs at h ⊢
  · cases h
  · cases h
  · rfl
  · rfl

end Sys2Proof.Machine.F64
end

section
/-! The humidity/temperature device: the ranges and the monotony of its two results (43_comp_humidity_light.md R140, R142). -/

namespace Sys2Proof.Machine

open F64

/-! ## Dividing one natural number by another -/

namespace F64

/-- The magnitude of a / b rounded once, in units of 2^-1074. -/
def quotientMag (a b : Nat) : Nat := roundMag (a * one * one) (b * one)

theorem quotientMag_le {a b c : Nat} (hb : 0 < b) (hc : c < 2 ^ 53) (h : a ≤ c * b) : quotientMag a b ≤ c * one := by
  refine roundMag_le (Nat.mul_pos hb one_pos) (onGrid_int hc) ?_
  calc a * one * one ≤ c * b * one * one := Nat.mul_le_mul_right _ (Nat.mul_le_mul_right _ h)
    _ = c * one * (b * one) := by ring

theorem quotientMag_mono {a a' b : Nat} (hb : 0 < b) (h : a ≤ a') : quotientMag a b ≤ quotientMag a' b := by
  have hpos : 0 < b * one := Nat.mul_pos hb one_pos
  exact roundMag_mono hpos hpos (Nat.mul_le_mul_right _ (Nat.mul_le_mul_right _ (Nat.mul_le_mul_right _ h)))

theorem fdiv_lit_lit {a b c : Nat} (hb : 0 < b) (hc : c < 2 ^ 53) (h : a ≤ c * b) :
    fdiv (lit a) (lit b) = .fin false (quotientMag a b) := by
  have hn : b * one ≠ 0 := (Nat.mul_pos hb one_pos).ne'
  have hlt : quotientMag a b < limit := (quotientMag_le hb hc h).trans_lt (lit_mag_lt_limit hc)
  rw [lit, lit, fdiv, if_neg hn]
  exact round_eq_fin hlt

/-- A value of [+0, 100] passes the clamp unchanged (R143). -/
theorem clamp01_of_le {m : Nat} (h : m ≤ 100 * one) : clamp01 (.fin false m) = .fin false m := by
  have hlow : flt (.fin false m) (lit 0) = false := (flt_eq_false_iff rfl rfl).2 (by simp)
  have hhigh : flt (lit 100) (.fin false m) = false :=
    (flt_eq_false_iff rfl rfl).2 (by rw [units_fin_false, units_lit]; exact_mod_cast h)
  simp [clamp01, hlow, hhigh]

end F64

/-! ## The humidity -/

theorem rhRatio_eq (raw : Half) : rhRatio raw = .fin false (quotientMag (100 * raw.toNat) 65535) := by
  have hcast : (100 * raw.toNat : Int) = (100 * raw.toNat : Nat) := by push_cast; rfl
  rw [rhRatio, hcast, i2f_natCast]
  exact fdiv_lit_lit (c := 100) (by norm_num) (by norm_num) (by omega)

/-- The ratio is at most 100 (R142). -/
theorem rhRatio_le (raw : Half) : quotientMag (100 * raw.toNat) 65535 ≤ 100 * one :=
  quotientMag_le (by norm_num) (by norm_num) (by omega)

/-- The clamp changes no value (R142). -/
theorem rhHumidity_eq_rhRatio (raw : Half) : rhHumidity raw = rhRatio raw := by
  rw [rhHumidity, rhRatio_eq, clamp01_of_le (rhRatio_le raw)]

theorem rhHumidity_eq (raw : Half) : rhHumidity raw = .fin false (quotientMag (100 * raw.toNat) 65535) :=
  (rhHumidity_eq_rhRatio raw).trans (rhRatio_eq raw)

theorem rhHumidity_finite (raw : Half) : (rhHumidity raw).finite = true := by rw [rhHumidity_eq]; rfl

theorem rhHumidity_signbit (raw : Half) : (rhHumidity raw).signbit = false := by rw [rhHumidity_eq]; rfl

theorem rhHumidity_units (raw : Half) : (rhHumidity raw).units = quotientMag (100 * raw.toNat) 65535 := by
  rw [rhHumidity_eq, units_fin_false]

theorem rhHumidity_units_mono {a b : Half} (h : a.toNat ≤ b.toNat) : (rhHumidity a).units ≤ (rhHumidity b).units := by
  rw [rhHumidity_units, rhHumidity_units]
  exact Int.ofNat_le.2 (quotientMag_mono (by norm_num) (by omega))

/-! ## The temperature -/

theorem rhTemperature_eq (raw : Half) :
    rhTemperature raw = fadd (i2f (-45)) (.fin false (quotientMag (175 * raw.toNat) 65535)) := by
  have hcast : (175 * raw.toNat : Int) = (175 * raw.toNat : Nat) := by push_cast; rfl
  rw [rhTemperature, hcast, i2f_natCast, fdiv_lit_lit (c := 175) (by norm_num) (by norm_num) (by omega)]

/-- The term added to -45 is at most 175. -/
theorem rhTemperature_term_le (raw : Half) : quotientMag (175 * raw.toNat) 65535 ≤ 175 * one :=
  quotientMag_le (by norm_num) (by norm_num) (by omega)

theorem rhTemperature_finite (raw : Half) : (rhTemperature raw).finite = true := by
  have hconst : AtMost (i2f (-45)) (45 * one) := atMost_i2f (by norm_num)
  have hterm : AtMost (.fin false (quotientMag (175 * raw.toNat) 65535)) (175 * one) :=
    ⟨_, _, rfl, rhTemperature_term_le raw⟩
  rw [rhTemperature_eq]
  exact (atMost_fadd hconst hterm (onGrid_int (n := 220) (by norm_num)) (lit_mag_lt_limit (by norm_num))
    (by omega)).finite

theorem rhTemperature_units (raw : Half) :
    (rhTemperature raw).units = roundUnits (-(45 * one : Nat) + quotientMag (175 * raw.toNat) 65535) := by
  have hfin := rhTemperature_finite raw
  rw [rhTemperature_eq] at hfin ⊢
  exact units_fadd hfin

theorem rhTemperature_units_mono {a b : Half} (h : a.toNat ≤ b.toNat) :
    (rhTemperature a).units ≤ (rhTemperature b).units := by
  have hterm : quotientMag (175 * a.toNat) 65535 ≤ quotientMag (175 * b.toNat) 65535 :=
    quotientMag_mono (by norm_num) (by omega)
  rw [rhTemperature_units, rhTemperature_units]
  exact roundUnits_mono (by omega)

/-- The temperature is at least -45: the term added is not negative, and -45 is rounded to itself. -/
theorem rhTemperature_units_ge (raw : Half) : -(45 * one : Nat) ≤ (rhTemperature raw).units := by
  have hexact : roundUnits (-(45 * one : Nat)) = -(45 * one : Nat) :=
    roundUnits_of_onGrid (by rw [Int.natAbs_neg]; exact onGrid_int (n := 45) (by norm_num))
  rw [rhTemperature_units, ← hexact]
  exact roundUnits_mono (by omega)

/-- The temperature is at most 130: the term added is at most 175, and 130 is rounded to itself. -/
theorem rhTemperature_units_le (raw : Half) : (rhTemperature raw).units ≤ (130 * one : Nat) := by
  have hexact : roundUnits (130 * one : Nat) = (130 * one : Nat) :=
    roundUnits_of_onGrid (onGrid_int (n := 130) (by norm_num))
  have hterm := rhTemperature_term_le raw
  rw [rhTemperature_units, ← hexact]
  exact roundUnits_mono (by omega)

/-! ## The obligation -/

/-- Settles O41: division and addition round monotonically, and the end points are numbers that binary64 holds. -/
theorem rhResultsStayInRange : Obligations.RhResultsStayInRange := by
  unfold Obligations.RhResultsStayInRange
  refine ⟨fun raw => ?_, fun a b hab => ?_⟩
  · have ht := rhTemperature_finite raw
    have hh := rhHumidity_finite raw
    refine ⟨ht, (flt_eq_false_iff ht rfl).2 (rhTemperature_units_ge raw), (flt_eq_false_iff rfl ht).2 ?_, hh,
      rhHumidity_signbit raw, (flt_eq_false_iff rfl hh).2 ?_, rhHumidity_eq_rhRatio raw⟩
    · rw [units_lit]
      exact_mod_cast rhTemperature_units_le raw
    · rw [rhHumidity_units, units_lit]
      exact_mod_cast rhRatio_le raw
  · exact ⟨(flt_eq_false_iff (rhTemperature_finite b) (rhTemperature_finite a)).2 (rhTemperature_units_mono hab),
      (flt_eq_false_iff (rhHumidity_finite b) (rhHumidity_finite a)).2 (rhHumidity_units_mono hab)⟩

end Sys2Proof.Machine
end

section
/-! The colour/light device: COMP_LUX where it completes, its clamp, its coefficient check and its raw counts
(43_comp_humidity_light.md R150 to R153, R155). -/

namespace Sys2Proof.Machine

open F64

variable {s t : State}

/-! ## The raw counts -/

/-- The little-endian pair as the sum of its bytes' shares (40_codec.md R102). -/
theorem le16_toNat (lo hi : Byte) : (le16 lo hi).toNat = lo.toNat + 256 * hi.toNat := by
  rw [le16, BitVec.toNat_append, ← Nat.shiftLeft_add_eq_or_of_lt lo.isLt, Nat.shiftLeft_eq]
  omega

theorem State.le16At_toNat (s : State) {i : Nat} (h : i + 1 < 24) :
    (s.le16At i).toNat = (s.ibuf[i]).toNat + 256 * (s.ibuf[i + 1]).toNat := by
  rw [State.le16At, le16_toNat, byte_of_lt s (by omega), byte_of_lt s h]

theorem count_eq (raw : Half) : count raw = .fin false (raw.toNat * one) := i2f_natCast _

/-- A count's encoding reads back as the count (R155). -/
theorem ofBits_toBits_count (raw : Half) : ofBits (count raw).toBits = count raw := by
  have hraw := raw.isLt
  rw [count, i2f_natCast]
  exact ofBits_toBits rfl (holdable_lit (by omega))

/-! ## The lux estimate -/

/-- x, the lux estimate of the sample in IBUF before its clamp (R150). -/
def State.luxEstimate (s : State) : F64 := luxSum (ofBits s.luxKr) (ofBits s.luxKc) (s.le16At 0) (s.le16At 2)

/-- The coefficients and the estimate are finite (R153). -/
def State.LuxFinite (s : State) : Prop :=
  (ofBits s.luxKr).finite = true ∧ (ofBits s.luxKc).finite = true ∧ s.luxEstimate.finite = true

/-- The clamp answers +0.0 in place of a value with its sign bit set, and any other value itself (R152). -/
theorem luxClamp_cases (x : F64) :
    (x.signbit = true ∧ luxClamp x = lit 0) ∨ (x.signbit = false ∧ luxClamp x = x) := by
  rw [luxClamp]
  cases x.signbit with
  | true => exact .inl ⟨rfl, rfl⟩
  | false => exact .inr ⟨rfl, rfl⟩

theorem luxClamp_toBits (x : F64) : (luxClamp x).toBits = if x.signbit then 0#64 else x.toBits := by
  rcases luxClamp_cases x with ⟨hs, hx⟩ | ⟨hs, hx⟩ <;> rw [hx, hs]
  · exact toBits_lit_zero
  · rfl

theorem luxClamp_signbit (x : F64) : (luxClamp x).signbit = false := by
  rcases luxClamp_cases x with ⟨-, hx⟩ | ⟨hs, hx⟩ <;> rw [hx]
  · rfl
  · exact hs

theorem holdable_luxClamp {x : F64} (h : Holdable x) : Holdable (luxClamp x) := by
  rcases luxClamp_cases x with ⟨-, hx⟩ | ⟨-, hx⟩ <;> rw [hx]
  · exact holdable_lit (by norm_num)
  · exact h

theorem luxClamp_finite {x : F64} (h : x.finite = true) : (luxClamp x).finite = true := by
  rcases luxClamp_cases x with ⟨-, hx⟩ | ⟨-, hx⟩ <;> rw [hx]
  · rfl
  · exact h

/-- The clamped estimate's encoding reads back as the estimate: a sum is a value that binary64 holds. -/
theorem ofBits_toBits_luxClamp (h : s.luxEstimate.finite = true) :
    ofBits (luxClamp s.luxEstimate).toBits = luxClamp s.luxEstimate :=
  ofBits_toBits (luxClamp_finite h) (holdable_luxClamp (holdable_fadd _ _))

/-- The clamp leaves no sign bit in RES[3] (R152). -/
theorem msb_luxClamp (h : s.luxEstimate.finite = true) : (luxClamp s.luxEstimate).toBits.msb = false := by
  have hread := ofBits_toBits_luxClamp h
  rw [msb_eq_signbit (by rw [hread]; exact luxClamp_finite h), hread]
  exact luxClamp_signbit _

/-- The sum is -0.0 only where the product with KC is, which takes a negative KC (R152). -/
theorem luxSum_ne_negZero {kc : F64} (kr : F64) (clear red : Half) (hfin : kc.finite = true) (hpos : kc.signbit = false) :
    luxSum kr kc clear red ≠ .fin true 0 := by
  obtain ⟨s, m, rfl⟩ := finite_iff.1 hfin
  obtain rfl : s = false := hpos
  intro h
  have hproduct := (fadd_eq_negZero h).2
  rw [count_eq, fmul] at hproduct
  cases (round_eq_fin_imp hproduct).1

/-! ## COMP_LUX -/

/-- The state after COMP_LUX has taken the eight bytes in IBUF (R150). -/
def State.afterCompLux (s : State) : State :=
  ((s.setResValid 0#9).writeLux (luxClamp s.luxEstimate) (s.le16At 0) (s.le16At 2) (s.le16At 4) (s.le16At 6)).setOk

theorem State.afterCompLux_lux (s : State) : s.afterCompLux.res[3] = (luxClamp s.luxEstimate).toBits :=
  State.writeLux_lux _ _ _ _ _ _

theorem State.afterCompLux_count (s : State) (j : Fin 4) :
    s.afterCompLux.res[4 + j.val] = (count (s.le16At (2 * j.val))).toBits := by
  match j with
  | 0 => exact State.writeLux_clear _ _ _ _ _ _
  | 1 => exact State.writeLux_red _ _ _ _ _ _
  | 2 => exact State.writeLux_green _ _ _ _ _ _
  | 3 => exact State.writeLux_blue _ _ _ _ _ _

/-- COMP_LUX completes on eight bytes where the coefficients and the estimate are finite. -/
theorem exec_compLux_completes (hl : s.ibufLen = 8#6) (hfin : s.LuxFinite) :
    exec .compLux s = .next s.afterCompLux := by
  obtain ⟨hkr, hkc, hx⟩ := hfin
  have hlen : (s.setResValid 0#9).ibufLen.toNat = 8 := by rw [State.setResValid_ibufLen, hl]; rfl
  show execCompLux s = _
  rw [execCompLux, onLength_run hlen, if_pos (by rw [hkr, hkc]; rfl)]
  exact if_pos hx

/-- COMP_LUX raises BAD_COEFF on eight bytes where a coefficient or the estimate is not finite. -/
theorem exec_compLux_badCoeff (hl : s.ibufLen = 8#6) (hbad : ¬s.LuxFinite) :
    exec .compLux s = .next ((s.setResValid 0#9).setErr .badCoeff) := by
  obtain ⟨t, h⟩ := exec_answers_next .compLux s
  rcases execCompLux_cases h with ⟨-, hkr, hkc, hx, -⟩ | ⟨-, rfl, -⟩ | ⟨hlen, -⟩
  · exact absurd ⟨hkr, hkc, hx⟩ hbad
  · exact h
  · exact absurd (by rw [hl]; rfl) hlen

/-- COMP_LUX ends with OK only where it has taken the sample. -/
theorem exec_compLux_ok (h : exec .compLux s = .next t) (hok : t.err = .ok) : s.LuxFinite ∧ t = s.afterCompLux := by
  rcases execCompLux_cases h with ⟨-, hkr, hkc, hx, ht⟩ | ⟨-, rfl, -⟩ | ⟨-, rfl⟩
  · exact ⟨⟨hkr, hkc, hx⟩, ht⟩
  · cases hok
  · cases hok

/-! ## The obligations -/

/-- Settles O45: the clamp leaves no sign, and a sum is -0.0 only where both products are; the reset KC is positive. -/
theorem luxIsNeverNegative : Obligations.LuxIsNeverNegative := by
  unfold Obligations.LuxIsNeverNegative
  refine ⟨fun s t h hok => ?_, fun clear red => ?_, by decide +kernel⟩
  · obtain ⟨⟨-, -, hx⟩, rfl⟩ := exec_compLux_ok h hok
    have hmsb := msb_luxClamp hx
    rw [s.afterCompLux_lux]
    exact ⟨luxClamp_toBits _, fun hneg => absurd (hneg ▸ hmsb) (by decide), hmsb⟩
  · have ⟨hfin, hpos⟩ : (ofBits State.reset.luxKc).finite = true ∧ (ofBits State.reset.luxKc).signbit = false := by
      decide +kernel
    exact luxSum_ne_negZero _ clear red hfin hpos

/-- Settles O46: on eight bytes COMP_LUX completes exactly where the coefficients and the sum are finite, and what it then
stores reads back as the clamped sum. -/
theorem nonFiniteLuxRaisesBadCoeff : Obligations.NonFiniteLuxRaisesBadCoeff := by
  unfold Obligations.NonFiniteLuxRaisesBadCoeff
  refine ⟨?_, by decide +kernel⟩
  intro s hl kr kc x
  split
  next hfin =>
    have ⟨_, _, hx⟩ : s.LuxFinite := hfin
    refine ⟨_, exec_compLux_completes hl hfin, rfl, ?_, ?_⟩
    · rw [s.afterCompLux_lux, ofBits_toBits_luxClamp hx]
      exact luxClamp_finite hx
    · rw [s.afterCompLux_lux]
      exact msb_luxClamp hx
  next hbad => exact exec_compLux_badCoeff hl hbad

/-- Settles O47: RES[4..7] are the encodings of the counts, each of which reads back exactly. -/
theorem rawCountsAreExact : Obligations.RawCountsAreExact := by
  unfold Obligations.RawCountsAreExact
  intro s t h hok j
  obtain ⟨-, rfl⟩ := exec_compLux_ok h hok
  have hcount := s.le16At_toNat (i := 2 * j.val) (by omega)
  refine ⟨(s.le16At (2 * j.val)).toNat, hcount, by omega, ?_⟩
  rw [s.afterCompLux_count, ofBits_toBits_count, count_eq, one_eq]

end Sys2Proof.Machine
end

section
/-! Control: what NOP and the words of its opcode do (44_control.md R162). -/

namespace Sys2Proof.Machine

theorem exec_nop (s : State) : exec .nop s = .next s.setOk := rfl

/-- A word with OPC 0x00 is NOP where bits [31:8] are zero, and else raises ILLEGAL_CMD (30_encoding.md R72, R75). -/
theorem execute_opcZero {w : Word} (s : State) (hopc : w.toNat % 256 = 0) :
    execute w s = if w.toNat / 256 = 0 then exec .nop s else raise .illegalCmd s := by
  have hword := execute_formatN (s := s) (parse_of_opc .nop hopc) rfl
  split
  next hrest => exact (if_pos hrest).mp hword
  next hrest => exact (if_neg hrest).mp hword

/-- Settles O49: NOP completes at once, and of the words with its opcode only 0x00000000 has the bits [31:8] zero. -/
theorem nopOnlySetsOk : Obligations.NopOnlySetsOk := by
  unfold Obligations.NopOnlySetsOk
  refine ⟨fun s => ⟨exec_nop s, ?_⟩, fun w s hopc hne => ?_⟩
  · calc
      execute 0x00000000#32 s = exec .nop s := (execute_opcZero s rfl).trans (if_pos rfl)
      _ = .next s.setOk := exec_nop s
  · have hrest : w.toNat / 256 ≠ 0 := by omega
    exact (execute_opcZero s hopc).trans (if_neg hrest)

end Sys2Proof.Machine
end

section
/-! Errors: the code and the state with which a command ends, and how long ERRS stays set (60_exceptions.md R171 to R178). -/

namespace Sys2Proof.Machine

variable {s t : State}

/-! ## How a decoded command ends -/

/-- Command `i` took `s` to `t` as 60_exceptions.md R171 and R175 have it: no check fails, and the code is OK with ERRS as it was,
or the first failing check's code is raised in the state that only the clearing writes have changed. -/
inductive EndsAs (s : State) (i : Instr) (t : State) : Prop
  | completes (hcode : errorOf s i = .ok) (herr : t.err = .ok) (herrs : t.errs = s.errs)
  | raises {e : ErrCode} (he : e ≠ .ok) (hcode : errorOf s i = e) (ht : t = (s.afterClearing i).setErr e)

theorem EndsAs.err {i : Instr} (h : EndsAs s i t) : t.err = errorOf s i := by
  cases h with
  | completes hcode herr _ => rw [herr, hcode]
  | raises _ hcode ht => rw [ht, hcode]; rfl

theorem EndsAs.errs {i : Instr} (h : EndsAs s i t) : t.errs = (s.errs || decide (t.err ≠ .ok)) := by
  cases h with
  | completes _ herr herrs => simp [herr, herrs]
  | raises he _ ht => simp [ht, he]

/-! ### The codes of `errorOf` under the checks of Machine/Ops.lean, once the fields are legal -/

/-- The codec's checks of OFF: a decoded OFF fits, so what is left is IBUF_LEN (40_codec.md R100). -/
theorem bytesError_of_fits {off : Fin 32} {w : Nat} (hf : offFits off w = true) :
    errorOf.bytesError s off w = if s.ibufLen.toNat < off.val + w then .incompleteSample else .ok := by
  have hle : off.val + w ≤ 24 := of_decide_eq_true hf
  exact if_neg (by omega)

theorem errorOf_calLoad {slot : Fin 4} (hx : slotExists s.cfg slot = true) :
    errorOf s (.calLoad slot) =
      if (s.cal[slot]).valid then .calLocked else if s.ibufLen.toNat = 24 then .ok else .incompleteCal := by
  simp [errorOf, hx, BitVec.toNat_eq]

theorem errorOf_calRelease {slot : Fin 4} (hx : slotExists s.cfg slot = true) : errorOf s (.calRelease slot) = .ok := by
  simp [errorOf, hx]

theorem errorOf_compPt {slot : Fin 4} (hx : slotExists s.cfg slot = true) :
    errorOf s (.compPt slot) =
      if (s.cal[slot]).valid then if s.ibufLen.toNat = 6 then .ok else .incompleteSample else .notCalibrated := by
  rw [errorOf, hx]
  cases (s.cal[slot]).valid <;> simp [BitVec.toNat_eq]

theorem errorOf_compRh : errorOf s .compRh = if s.ibufLen.toNat = 6 then .ok else .incompleteSample := by
  simp [errorOf, BitVec.toNat_eq]

theorem errorOf_crcRh : errorOf s .crcRh = if s.ibufLen.toNat = 6 then .ok else .incompleteSample := by
  simp [errorOf, BitVec.toNat_eq]

/-! ### Each command -/

/-- The three fetching codec commands share this shape. -/
theorem onBytes_endsAs {i : Instr} {off : Fin 32} {w : Nat} {v : Word} (hcode : errorOf s i = errorOf.bytesError s off w)
    (hclear : s.afterClearing i = s) (hf : offFits off w = true) (h : onBytes off w s (codecResult v s) = .next t) :
    EndsAs s i t := by
  rw [bytesError_of_fits hf] at hcode
  rcases onBytes_cases h with ⟨-, hl, hrun⟩ | ⟨-, hl, rfl⟩ | ⟨hunfit, -⟩
  · obtain rfl := complete_eq_next.1 hrun
    exact .completes (hcode.trans (if_neg (by omega))) rfl rfl
  · exact .raises (by decide) (hcode.trans (if_pos hl)) (by rw [hclear])
  · cases hf.symm.trans hunfit

theorem execCalLoad_endsAs {slot : Fin 4} (hx : slotExists s.cfg slot = true) (h : execCalLoad slot s = .next t) :
    EndsAs s (.calLoad slot) t := by
  have hcode := errorOf_calLoad hx
  rcases execCalLoad_cases h with ⟨-, hv, hl, rfl⟩ | ⟨-, hv, hl, rfl⟩ | ⟨-, hv, rfl⟩ | ⟨habsent, -⟩
  · exact .completes (by rw [hcode, hv, hl]; rfl) rfl rfl
  · exact .raises (by decide) (by rw [hcode, hv, if_neg hl]; rfl) rfl
  · exact .raises (by decide) (by rw [hcode, if_pos hv]) rfl
  · cases hx.symm.trans habsent

theorem execCalRelease_endsAs {slot : Fin 4} (hx : slotExists s.cfg slot = true)
    (h : execCalRelease slot s = .next t) : EndsAs s (.calRelease slot) t := by
  rcases execCalRelease_cases h with ⟨-, rfl⟩ | ⟨habsent, -⟩
  · exact .completes (errorOf_calRelease hx) rfl rfl
  · cases hx.symm.trans habsent

theorem execCompPt_endsAs {slot : Fin 4} (hx : slotExists s.cfg slot = true) (h : execCompPt slot s = .next t) :
    EndsAs s (.compPt slot) t := by
  have hcode := errorOf_compPt hx
  rcases execCompPt_cases h with ⟨-, hv, hl, rfl⟩ | ⟨-, hv, hl, rfl⟩ | ⟨-, hv, rfl⟩ | ⟨habsent, -⟩
  · exact .completes (by rw [hcode, if_pos hv, if_pos hl]) rfl rfl
  · exact .raises (by decide) (by rw [hcode, if_pos hv, if_neg hl]) rfl
  · exact .raises (by decide) (by rw [hcode, hv]; rfl) rfl
  · cases hx.symm.trans habsent

theorem execCompRh_endsAs (h : execCompRh s = .next t) : EndsAs s .compRh t := by
  rcases execCompRh_cases h with ⟨hl, rfl⟩ | ⟨hl, rfl⟩
  · exact .completes (errorOf_compRh.trans (if_pos hl)) rfl rfl
  · exact .raises (by decide) (errorOf_compRh.trans (if_neg hl)) rfl

/-- BAD_COEFF stands for three checks, any of which may be the first to fail (43_comp_humidity_light.md R153). -/
theorem execCompLux_endsAs (h : execCompLux s = .next t) : EndsAs s .compLux t := by
  rcases execCompLux_cases h with ⟨hl, hkr, hkc, hx, rfl⟩ | ⟨hl, rfl, hbad⟩ | ⟨hl, rfl⟩
  · exact .completes (by simp [errorOf, BitVec.toNat_eq, hl, hkr, hkc, hx]) rfl rfl
  · refine .raises (by decide) ?_ rfl
    rcases hbad with hkr | hkc | hx
    · simp [errorOf, BitVec.toNat_eq, hl, hkr]
    · simp [errorOf, BitVec.toNat_eq, hl, hkc]
    · simp [errorOf, BitVec.toNat_eq, hl, hx]
  · exact .raises (by decide) (by simp [errorOf, BitVec.toNat_eq, hl]) rfl

theorem execCrcRh_endsAs (h : execCrcRh s = .next t) : EndsAs s .crcRh t := by
  rcases crcRhWith_cases h with ⟨hl, rfl⟩ | ⟨hl, rfl⟩
  · exact .completes (errorOf_crcRh.trans (if_pos hl)) rfl rfl
  · exact .raises (by decide) (errorOf_crcRh.trans (if_neg hl)) rfl

/-- Every command with legal fields reports the first of its failing checks, and raises it after its clearing writes. -/
theorem exec_endsAs {i : Instr} (hw : i.wf s.cfg = true) (h : exec i s = .next t) : EndsAs s i t := by
  cases i with
  | nop => obtain rfl := execNop_cases h; exact .completes rfl rfl rfl
  | decBe16 off => exact onBytes_endsAs rfl rfl hw h
  | decLe16 off => exact onBytes_endsAs rfl rfl hw h
  | dec20 off => exact onBytes_endsAs rfl rfl hw h
  | toS16 => obtain rfl := execToS16_cases h; exact .completes rfl rfl rfl
  | calLoad slot => exact execCalLoad_endsAs hw h
  | calRelease slot => exact execCalRelease_endsAs hw h
  | compPt slot => exact execCompPt_endsAs hw h
  | compRh => exact execCompRh_endsAs h
  | compLux => exact execCompLux_endsAs h
  | crcRh => exact execCrcRh_endsAs h

/-- A word either decodes to a command, which ends as its checks say, or raises ILLEGAL_CMD. -/
theorem execute_endsAs {w : Word} (h : execute w s = .next t) :
    (∃ i, decode s.cfg w = .ok i ∧ EndsAs s i t) ∨ ∃ e, decode s.cfg w = .error e ∧ t = s.setErr .illegalCmd := by
  rcases execute_cases h with ⟨i, hd, hi⟩ | ⟨⟨e, hd⟩, ht⟩
  · exact .inl ⟨i, hd, exec_endsAs (wf_of_decode hd) hi⟩
  · exact .inr ⟨e, hd, ht⟩

theorem execute_reports {w : Word} {i : Instr} {e : ErrCode} (hd : decode s.cfg w = .ok i) (he : errorOf s i = e) :
    ∃ t, execute w s = .next t ∧ t.err = e := by
  obtain ⟨t, h⟩ := exec_answers_next i s
  exact ⟨t, by rw [execute, hd]; exact h, (exec_endsAs (wf_of_decode hd) h).err.trans he⟩

/-- ERRS is set by an error and otherwise kept (R171, R178). -/
theorem execute_errs {w : Word} (h : execute w s = .next t) : t.errs = (s.errs || decide (t.err ≠ .ok)) := by
  rcases execute_endsAs h with ⟨i, -, hi⟩ | ⟨e, -, rfl⟩
  · exact hi.errs
  · simp

/-! ## The clearing writes (R171) -/

theorem clearsResults_iff {i : Instr} : clearsResults i = true ↔ i = .compRh ∨ i = .compLux ∨ ∃ k, i = .compPt k := by
  cases i <;> simp [clearsResults]

theorem clearsCrc_iff {i : Instr} : clearsCrc i = true ↔ i = .crcRh := by
  cases i <;> simp [clearsCrc]

/-- The clearing writes field by field. -/
theorem State.afterClearing_eq (s : State) (i : Instr) :
    s.afterClearing i = { s with
      resValid := if clearsResults i = true then 0#9 else s.resValid
      crcValid := if clearsCrc i = true then false else s.crcValid
      crcTOk := if clearsCrc i = true then false else s.crcTOk
      crcHOk := if clearsCrc i = true then false else s.crcHOk } := by
  unfold State.afterClearing
  cases clearsResults i <;> cases clearsCrc i <;> rfl

/-! ## ERR and ERRS through a step (R178) -/

/-- No command reads ERR. -/
theorem exec_ignores_err (i : Instr) (s : State) (e : ErrCode) : exec i { s with err := e } = exec i s := by
  cases i <;> rfl

theorem execute_ignores_err (w : Word) (s : State) (e : ErrCode) : execute w { s with err := e } = execute w s := by
  unfold execute
  cases decode s.cfg w with
  | ok i => exact exec_ignores_err i s e
  | error _ => rfl

/-- The one write of a register that changes ERRS is that of a 1 to STATUS bit 4 (20_memory.md R45). -/
theorem State.writeReg_errs (s : State) (r : Reg) (v : Word) :
    (s.writeReg r v).errs = s.errs ∨ (r = .status ∧ v.getLsbD 4 = true) := by
  cases r with
  | status =>
    cases hv : v.getLsbD 4 with
    | true => exact .inr ⟨rfl, rfl⟩
    | false => exact .inl (by rw [State.writeReg, hv]; rfl)
  | _ => exact .inl rfl

theorem State.writeAt_errs (s : State) {off : Off} (v : Word) (ha : aligned off = true) :
    (s.writeAt off v).errs = s.errs ∨ (off = Reg.status.offset ∧ v.getLsbD 4 = true) := by
  cases hat : Reg.at s.cfg off with
  | none => exact .inl (by rw [State.writeAt, hat])
  | some r =>
    rcases s.writeReg_errs r v with hkept | ⟨rfl, hv⟩
    · exact .inl (by rw [State.writeAt, hat]; exact hkept)
    · exact .inr ⟨(Reg.offset_of_at ha hat).1.symm, hv⟩

/-- No event at the port clears ERRS but a reset and a write of a 1 to STATUS bit 4. -/
theorem serve_keeps_errs {e : PortEvent} (hs : s.errs = true) (h : serve e s = .next t) :
    t.errs = true ∨ e = .reset ∨ ∃ v, e = .write Reg.status.offset v ∧ v.getLsbD 4 = true := by
  rcases serve_cases h with ⟨off, -, -, rfl⟩ | ⟨w, -, hx⟩ | ⟨off, v, rfl, ha, -, rfl⟩ | ⟨rfl, -⟩
  · exact .inl hs
  · exact .inl (by rw [execute_errs hx, hs, Bool.true_or])
  · rcases s.writeAt_errs v ha with hkept | ⟨rfl, hv⟩
    · exact .inl (hkept.trans hs)
    · exact .inr (.inr ⟨v, rfl, hv⟩)
  · exact .inr (.inl rfl)

/-! ## The obligations -/

/-- Settles O50: an error is raised in the state that only the clearing writes have changed. -/
theorem errorsArePrecise : Obligations.ErrorsArePrecise := by
  unfold Obligations.ErrorsArePrecise
  intro w s t h herr
  rcases execute_endsAs h with ⟨i, hd, hi⟩ | hillegal
  · refine .inl ⟨i, hd, ?_⟩
    cases hi with
    | completes _ hok _ => exact absurd hok herr
    | raises _ _ ht =>
      rw [ht, State.afterClearing_eq]
      simp only [clearsResults_iff, clearsCrc_iff]
      rfl
  · exact .inr hillegal

/-- Settles O51: `errorOf` is the code of every decoded command; in the examples the earlier of two failing checks is reported. -/
theorem errorsAreReportedInOrder : Obligations.ErrorsAreReportedInOrder := by
  unfold Obligations.ErrorsAreReportedInOrder
  refine ⟨fun w s => ?_, fun s w slot => ⟨fun hd hv _ => ?_, fun hd hv _ => ?_, fun hd _ hl => ?_⟩⟩
  · obtain ⟨t, h⟩ := execute_answers_next w s
    refine ⟨t, h, ?_, execute_errs h⟩
    rcases execute_endsAs h with ⟨i, hd, hi⟩ | ⟨e, hd, rfl⟩
    · rw [hd]; exact hi.err
    · rw [hd]; rfl
  · have hx : slotExists s.cfg slot = true := wf_of_decode hd
    exact execute_reports hd (by rw [errorOf_calLoad hx, if_pos hv])
  · have hx : slotExists s.cfg slot = true := wf_of_decode hd
    exact execute_reports hd (by rw [errorOf_compPt hx, hv]; rfl)
  · exact execute_reports hd (by simp [errorOf, hl])

/-- Settles O52: no command reads ERR, and of the events at the port only a reset and a clearing write of STATUS clear ERRS. -/
theorem stickyErrorStaysUntilCleared : Obligations.StickyErrorStaysUntilCleared := by
  unfold Obligations.StickyErrorStaysUntilCleared
  refine ⟨execute_ignores_err, fun s t hs h => ?_⟩
  rcases step_cases h with ⟨-, rfl⟩ | ⟨e, rest, hp, hserve⟩
  · exact .inl hs
  · rcases serve_keeps_errs (s := s.setPort rest) hs hserve with hset | rfl | ⟨v, rfl, hv⟩
    · exact .inl hset
    · exact .inr (.inl ⟨rest, hp⟩)
    · exact .inr (.inr ⟨v, rest, hp, hv⟩)

end Sys2Proof.Machine
end

section
/-! The encoding as a whole: decoding and encoding undo each other, each word that parses has one row of the opcode table, and
what a step and `exec` make of a command (30_encoding.md R70 to R75; 44_control.md R160). -/

namespace Sys2Proof

/-- A word whose fixed bits are zero is the layout of its own fields. -/
theorem encode_withFields {w : Word} {i : Instr} (ho : opcField w = i.opcode) (hz : i.fixedZero w = true) :
    encode (i.withFields w) = w := by
  have hN (h : fixedN w = true) : w = layoutN (opcField w) := by
    rw [fixedN, beq_iff_eq] at h
    rw [layoutN, ← h]
    exact word_eq_append_opcField w
  have hO (h : fixedO w = true) : w = layoutO (offField w) (opcField w) := by
    rw [fixedO, beq_iff_eq] at h
    have hoff : (BitVec.ofFin (offField w) : BitVec 5) = w.extractLsb' 8 5 := rfl
    rw [layoutO, ← h, hoff, BitVec.extractLsb'_append_extractLsb'_eq_extractLsb' (w := 32) (start₁ := 8) (len₁ := 5) rfl]
    exact word_eq_append_opcField w
  have hS (h : fixedS w = true) : w = layoutS (slotField w) (opcField w) := by
    simp only [fixedS, Bool.and_eq_true, beq_iff_eq] at h
    have hslot : (BitVec.ofFin (slotField w) : BitVec 2) = w.extractLsb' 16 2 := rfl
    rw [layoutS, ← h.1, ← h.2, hslot,
      BitVec.extractLsb'_append_extractLsb'_eq_extractLsb' (w := 32) (start₁ := 16) (len₁ := 2) rfl,
      BitVec.extractLsb'_append_extractLsb'_eq_extractLsb' (w := 32) (start₁ := 8) (len₁ := 8) rfl]
    exact word_eq_append_opcField w
  cases i with
  | nop | toS16 | compRh | compLux | crcRh => exact (congrArg layoutN ho.symm).trans (hN hz).symm
  | decBe16 _ | decLe16 _ | dec20 _ => exact (congrArg (layoutO _) ho.symm).trans (hO hz).symm
  | calLoad _ | calRelease _ | compPt _ => exact (congrArg (layoutS _) ho.symm).trans (hS hz).symm

/-- A word that parses is the word of its command, so no bit of it is dropped. -/
theorem encode_of_parse {w : Word} {i : Instr} (h : parse w = .ok i) : encode i = w := by
  obtain ⟨ho, hz, hf⟩ := parse_eq_ok.1 h
  rw [← hf]
  exact encode_withFields ho hz

@[simp] theorem Instr.row_withFields (w : Word) (i : Instr) : (i.withFields w).row = i.row := by
  cases i <;> rfl

/-- The one row that holds a word that parses is its command's: another row's word would parse to a command of that row. -/
theorem row_eq_of_holds {w : Word} {i j : Instr} (h : parse w = .ok i) (hj : j.row.holds w = true) : j.row = i.row := by
  obtain ⟨ho, hz⟩ := (holds_row_iff j).1 hj
  have hij : i = j.withFields w := by
    rw [parse_of_opcode j ho, whenZero_eq_ok] at h
    exact h.2.symm
  rw [hij, Instr.row_withFields]

end Sys2Proof

namespace Sys2Proof.Machine

variable {s : State}

/-- A command with a field out of range raises ILLEGAL_CMD: each such command checks its field first. -/
theorem exec_of_ill_formed {i : Instr} (h : i.wf s.cfg = false) : exec i s = raise .illegalCmd s := by
  cases i with
  | nop | toS16 | compRh | compLux | crcRh => cases h
  | decBe16 _ | decLe16 _ | dec20 _ => exact onBytes_unfit h
  | calLoad _ | calRelease _ | compPt _ => exact if_neg (Bool.eq_false_iff.1 h)

/-- One step serves the first event at the port. -/
theorem step_of_port {e : PortEvent} {rest : List PortEvent} (h : s.port = e :: rest) :
    step s = serve e (s.setPort rest) := by
  rw [step, h]

/-- A write of CMD executes the word. -/
theorem serve_cmdWrite (w : Word) (s : State) : serve (cmdWrite w) s = execute w s := rfl

theorem execute_of_decode {w : Word} {i : Instr} (h : decode s.cfg w = .ok i) : execute w s = exec i s := by
  rw [execute, h]

/-! ## The obligations -/

/-- Settles O1, by `decode_encode`: a command's word parses to it, and its fields are legal. -/
theorem decodeOfEncodeGivesTheCommand : Obligations.DecodeOfEncodeGivesTheCommand := by
  unfold Obligations.DecodeOfEncodeGivesTheCommand
  exact fun cfg i h => decode_encode h

/-- Settles O2: the fixed bits and the fields of a word that decodes are all of it. -/
theorem encodeOfDecodeGivesTheWord : Obligations.EncodeOfDecodeGivesTheWord := by
  unfold Obligations.EncodeOfDecodeGivesTheWord
  exact fun cfg w i h => encode_of_parse (decode_eq_ok.1 h).1

/-- Settles O4: a row holds a word exactly when the row's command has its opcode and zero bits. -/
theorem oneOpcodeRowHoldsEachWord : Obligations.OneOpcodeRowHoldsEachWord := by
  unfold Obligations.OneOpcodeRowHoldsEachWord
  intro w i h
  obtain ⟨ho, hz, -⟩ := parse_eq_ok.1 h
  refine ⟨mem_opcodeTable.2 ⟨i, rfl⟩, (holds_row_iff i).2 ⟨ho, hz⟩, fun r hr hw => ?_⟩
  obtain ⟨j, rfl⟩ := mem_opcodeTable.1 hr
  exact row_eq_of_holds h hw

/-- Settles O7: a step serves the write of CMD, which executes the word. -/
theorem stepRunsTheDecodedCommand : Obligations.StepRunsTheDecodedCommand := by
  unfold Obligations.StepRunsTheDecodedCommand
  refine ⟨fun s w rest i hp hd => ?_, fun s w i hd => ?_⟩
  · calc
      step s = execute w (s.setPort rest) := step_of_port (e := cmdWrite w) hp
      _ = exec i (s.setPort rest) := execute_of_decode hd
  · have hw : BitVec.ofNat 32 (w.toNat % 2 ^ 32) = w := by
      rw [Nat.mod_eq_of_lt w.isLt, BitVec.ofNat_toNat, BitVec.setWidth_eq]
    calc
      step (s.withFetchWord 32 w.toNat) = execute (BitVec.ofNat 32 (w.toNat % 2 ^ 32)) s := rfl
      _ = execute w s := by rw [hw]
      _ = exec i s := execute_of_decode hd

/-- Settles O8, by `exec_of_ill_formed`. -/
theorem illFormedFieldsRaiseIllegalCmd : Obligations.IllFormedFieldsRaiseIllegalCmd := by
  unfold Obligations.IllFormedFieldsRaiseIllegalCmd
  exact fun s i h => exec_of_ill_formed h

end Sys2Proof.Machine
end

section
/-! The pressure/temperature compensation: the exact differences of the temperature chain, the bounds on every intermediate, and
how small a nonzero divisor can be (42_comp_pressure.md R126, R127). -/

namespace Sys2Proof.Machine

open F64

namespace F64

/-! ## Bounds -/

theorem AtMost.below {x : F64} {a b : Nat} (h : AtMost x a) (hab : a < b * one) : Below x b := by
  obtain ⟨s, m, rfl, hm⟩ := h
  exact ⟨s, m, rfl, hm.trans_lt hab⟩

theorem AtMostPow.below {x : F64} {k b : Nat} (h : AtMostPow x k) (hkb : 2 ^ k < b) : Below x b :=
  AtMost.below h (Nat.mul_lt_mul_of_pos_right hkb one_pos)

theorem two_pow_split {a b c : Nat} (h : a + b = c) : 2 ^ c = 2 ^ a * 2 ^ b := by rw [← h, pow_add]

theorem pow_le_limit {k : Nat} (h : k ≤ 2098) : 2 ^ k ≤ limit := by
  unfold limit
  exact pow_le_pow_right₀ (by norm_num) h

/-- Sums of integer bounds. -/
theorem atMost_fadd_int {x y : F64} {a b c : Nat} (hx : AtMost x (a * one)) (hy : AtMost y (b * one)) (h : a + b ≤ c)
    (hc : c < 2 ^ 53) : AtMost (fadd x y) (c * one) :=
  atMost_fadd hx hy (onGrid_int hc) (lit_mag_lt_limit hc) (by rw [← Nat.add_mul]; exact Nat.mul_le_mul_right _ h)

/-- A factor below a power of two moves the exponent of a bound. -/
theorem atMost_fmul_pow {x y : F64} {b e i k : Nat} (hx : AtMost x (b * 2 ^ e)) (hy : AtMostPow y i) (hb : b < 2 ^ 53)
    (hk : e + i = k) (hl : 53 + k ≤ 2098) : AtMost (fmul x y) (b * 2 ^ k) := by
  refine atMost_fmul hx hy (onGrid_mul_pow hb) ?_ (Nat.le_of_eq ?_)
  · calc b * 2 ^ k < 2 ^ 53 * 2 ^ k := Nat.mul_lt_mul_of_pos_right hb (Nat.two_pow_pos _)
      _ = 2 ^ (53 + k) := (pow_add _ _ _).symm
      _ ≤ limit := pow_le_limit hl
  · rw [← hk, pow_add]; ring

/-! ## Exact operations (R127) -/

/-- Division of an integer by a power of two is exact. -/
theorem fdiv_lit_pow {n k e : Nat} (hn : n < 2 ^ 53) (h : e + k = 1074) :
    fdiv (lit n) (lit (2 ^ k)) = .fin false (n * 2 ^ e) := by
  have hpos : 0 < 2 ^ k * one := Nat.mul_pos (Nat.two_pow_pos k) one_pos
  have hone : one = 2 ^ e * 2 ^ k := by rw [one_eq, ← pow_add, h]
  have hlt : n * 2 ^ e < limit := by
    refine (Nat.mul_le_mul_left n ?_).trans_lt (lit_mag_lt_limit hn)
    rw [hone]
    exact Nat.le_mul_of_pos_right _ (Nat.two_pow_pos k)
  have hnum : n * one * one = n * 2 ^ e * (2 ^ k * one) := by
    calc n * one * one = n * (2 ^ e * 2 ^ k) * one := by rw [← hone]
      _ = n * 2 ^ e * (2 ^ k * one) := by ring
  rw [lit, lit, fdiv, if_neg hpos.ne', hnum]
  exact round_exact hpos (onGrid_mul_pow hn) hlt

theorem natAbs_signed (s : Bool) (m : Nat) : (signed s m).natAbs = m := by cases s <;> simp [signed]

/-- The difference of two multiples of one power of two is exact while it has at most 53 bits. -/
theorem fsub_exact {a b e : Nat} (ha : a < 2 ^ 53) (hb : b < 2 ^ 53) (he : 53 + e ≤ 2098) :
    fsub (.fin false (a * 2 ^ e)) (.fin false (b * 2 ^ e)) =
      .fin (decide ((a : Int) - b < 0)) (((a : Int) - b).natAbs * 2 ^ e) := by
  have hpow : (0 : Int) < 2 ^ e := by positivity
  have hval : signed false (a * 2 ^ e) + signed (!false) (b * 2 ^ e) = ((a : Int) - b) * 2 ^ e := by
    simp [signed]
    ring
  rcases fadd_fin_cases false (!false) (a * 2 ^ e) (b * 2 ^ e) with ⟨hz, hr⟩ | ⟨u, k, hk, hne, hr⟩
  · rw [hval, mul_eq_zero, or_iff_left hpow.ne'] at hz
    rw [fsub, neg, hr, hz]
    simp
  · rw [hval] at hk
    have hmag : k = ((a : Int) - b).natAbs * 2 ^ e := by
      rw [← natAbs_signed u k, hk, Int.natAbs_mul, Int.natAbs_pow]
      rfl
    have hsign : u = decide ((a : Int) - b < 0) := by
      have hk0 : k ≠ 0 := fun h0 => by obtain ⟨h1, h2⟩ := hne h0; cases h1.trans h2.symm
      cases u with
      | false =>
        have hpos : 0 ≤ ((a : Int) - b) * 2 ^ e := hk ▸ Int.natCast_nonneg k
        exact (decide_eq_false (not_lt.2 (nonneg_of_mul_nonneg_left hpos hpow))).symm
      | true =>
        have hneg : ((a : Int) - b) * 2 ^ e < 0 := by rw [← hk, signed, if_pos rfl]; omega
        exact (decide_eq_true (neg_of_mul_neg_left hneg hpow.le)).symm
    have hbits : ((a : Int) - b).natAbs < 2 ^ 53 := by omega
    have hlt : k < limit := by
      rw [hmag]
      calc ((a : Int) - b).natAbs * 2 ^ e < 2 ^ 53 * 2 ^ e := Nat.mul_lt_mul_of_pos_right hbits (Nat.two_pow_pos _)
        _ = 2 ^ (53 + e) := (pow_add _ _ _).symm
        _ ≤ limit := pow_le_limit he
    have hgrid : OnGrid k := by rw [hmag]; exact onGrid_mul_pow hbits
    have hexact := round_exact (s := u) Nat.one_pos hgrid hlt
    rw [Nat.mul_one] at hexact
    rw [fsub, neg, hr, hexact, hsign, hmag]

/-! ## How small a sum with 1 can be -/

theorem holdable_fmul (x y : F64) : Holdable (fmul x y) := by
  intro r k h
  cases x with
  | nan => cases h
  | inf s =>
    cases y with
    | nan | inf => cases h
    | fin t n => simp only [fmul] at h; split at h <;> cases h
  | fin s m =>
    cases y with
    | nan => cases h
    | inf t => simp only [fmul] at h; split at h <;> cases h
    | fin t n => exact holdable_round _ one_pos r k h

theorem holdable_fdiv (x y : F64) : Holdable (fdiv x y) := by
  intro r k h
  cases x with
  | nan => cases h
  | inf s => cases y <;> cases h
  | fin s m =>
    cases y with
    | nan => cases h
    | inf t => exact holdable_zero _ r k h
    | fin t n =>
      simp only [fdiv] at h
      split at h
      next => split at h <;> cases h
      next hn => exact holdable_round _ (Nat.pos_of_ne_zero hn) r k h

theorem one_eq_split : one = 2 ^ 53 * 2 ^ 1021 := by rw [one_eq]; exact two_pow_split rfl

/-- From one half on, binary64 values are multiples of 2^-53. -/
theorem pow_dvd_of_onGrid {n : Nat} (h : OnGrid n) (hn : 2 ^ 1073 ≤ n) : 2 ^ 1021 ∣ n := by
  have hs : spacing (2 ^ 1073) = 2 ^ 1021 := by rw [spacing, Nat.log2_two_pow]
  rw [← hs]
  exact (spacing_dvd_spacing hn).trans h

/-- `P` is the spacing below 1 and `2^53 * P` is 1: a nonzero sum of 1 and a term that is a multiple of `P` from one half on
is at least `P`. -/
theorem le_natAbs_one_add {P n : Nat} (t : Bool) (hdvd : 2 ^ 52 * P ≤ n → P ∣ n)
    (hne : signed false (2 ^ 53 * P) + signed t n ≠ 0) : P ≤ (signed false (2 ^ 53 * P) + signed t n).natAbs := by
  cases t with
  | false => simp only [signed, Bool.false_eq_true, if_false]; omega
  | true =>
    rcases Nat.lt_or_ge n (2 ^ 52 * P) with hlt | hge
    · simp only [signed, if_true, Bool.false_eq_true, if_false]; omega
    · have hone : (P : Int) ∣ signed false (2 ^ 53 * P) := Int.natCast_dvd_natCast.2 (Nat.dvd_mul_left _ _)
      have hterm : (P : Int) ∣ signed true n := (Int.natCast_dvd_natCast.2 (hdvd hge)).neg_right
      exact Nat.le_of_dvd (Int.natAbs_pos.2 hne) (Int.natCast_dvd.1 (dvd_add hone hterm))

/-- A sum with 1 is zero or at least 2^-53: a term near -1 is a multiple of 2^-53. -/
theorem one_add_ge {y : F64} {s : Bool} {f : Nat} (hy : Holdable y) (h : fadd (lit 1) y = .fin s f) (hf : f ≠ 0) :
    2 ^ 1021 ≤ f := by
  obtain ⟨-, t, n, rfl⟩ := fadd_eq_fin_operands h
  have hone : 1 * one = 2 ^ 53 * 2 ^ 1021 := (Nat.one_mul one).trans one_eq_split
  have hdvd : 2 ^ 52 * 2 ^ 1021 ≤ n → 2 ^ 1021 ∣ n := by
    rw [← two_pow_split (c := 1073) rfl]
    exact pow_dvd_of_onGrid (hy _ _ rfl).1
  rw [lit, hone] at h
  rcases fadd_fin_cases false t (2 ^ 53 * 2 ^ 1021) n with ⟨-, hr⟩ | ⟨u, k, hk, -, hr⟩
  · cases hr.symm.trans h; exact absurd rfl hf
  obtain ⟨-, rfl, -⟩ := round_eq_fin_imp (hr.symm.trans h)
  have hk0 : k ≠ 0 := by
    rintro rfl
    exact hf (by simpa using roundMag_of_onGrid (y := 0) Nat.one_pos (dvd_zero _))
  have hne : signed u k ≠ 0 := by rwa [← Int.natAbs_ne_zero, natAbs_signed]
  refine le_roundMag Nat.one_pos (onGrid_pow 1021) ?_
  rw [Nat.mul_one, ← natAbs_signed u k, hk]
  exact le_natAbs_one_add t hdvd (hk ▸ hne)

end F64

/-! ## The temperature chain -/

/-- a of R122, in degrees of the temperature's own scale. -/
def CalSlot.diffA (c : CalSlot) (adcT : BitVec 20) : F64 :=
  fsub (fdiv (i2f adcT.toNat) (lit 16384)) (fdiv (c.num 0) (lit 1024))

/-- d of R122. -/
def CalSlot.diffD (c : CalSlot) (adcT : BitVec 20) : F64 :=
  fsub (fdiv (i2f adcT.toNat) (lit 131072)) (fdiv (c.num 0) (lit 8192))

theorem CalSlot.tFine_eq (c : CalSlot) (adcT : BitVec 20) :
    c.tFine adcT =
      fadd (fmul (c.diffA adcT) (c.num 1)) (fmul (fmul (c.diffD adcT) (c.diffD adcT)) (c.num 2)) := rfl

/-- Both differences are (adcT - 16*T1) times a power of two, exactly. -/
theorem diff_exact (c : CalSlot) (adcT : BitVec 20) {j k e : Nat} (hk : k = j + 4) (he : e + k = 1074) :
    fsub (fdiv (i2f adcT.toNat) (lit (2 ^ k))) (fdiv (c.num 0) (lit (2 ^ j))) =
      .fin (decide ((adcT.toNat : Int) - 16 * (c.coef[0]).toNat < 0))
        (((adcT.toNat : Int) - 16 * (c.coef[0]).toNat).natAbs * 2 ^ e) := by
  have hT := adcT.isLt
  have h1 := (c.coef[0]).isLt
  have hshift : (c.coef[0]).toNat * 2 ^ (e + 4) = 16 * (c.coef[0]).toNat * 2 ^ e := by rw [pow_add]; ring
  have hnum : c.num 0 = lit (c.coef[0]).toNat := (c.num_unsigned (.inl rfl)).trans (i2f_natCast _)
  rw [hnum, i2f_natCast, fdiv_lit_pow (by omega) he, fdiv_lit_pow (e := e + 4) (by omega) (by omega), hshift]
  exact_mod_cast fsub_exact (a := adcT.toNat) (b := 16 * (c.coef[0]).toNat) (e := e) (by omega) (by omega) (by omega)

theorem CalSlot.diffA_eq (c : CalSlot) (adcT : BitVec 20) :
    c.diffA adcT = .fin (decide ((adcT.toNat : Int) - 16 * (c.coef[0]).toNat < 0))
      (((adcT.toNat : Int) - 16 * (c.coef[0]).toNat).natAbs * 2 ^ 1060) := diff_exact c adcT (j := 10) (k := 14) rfl rfl

theorem CalSlot.diffD_eq (c : CalSlot) (adcT : BitVec 20) :
    c.diffD adcT = .fin (decide ((adcT.toNat : Int) - 16 * (c.coef[0]).toNat < 0))
      (((adcT.toNat : Int) - 16 * (c.coef[0]).toNat).natAbs * 2 ^ 1057) := diff_exact c adcT (j := 13) (k := 17) rfl rfl

/-- The signed coefficients reach 2^15 in magnitude. -/
theorem CalSlot.num_signed_atMostPow (c : CalSlot) {k : Fin 12} (hk : ¬(k = 0 ∨ k = 3)) : AtMostPow (c.num k) 15 := by
  have hlo := (c.coef[k]).le_toInt
  have hhi := (c.coef[k]).toInt_lt
  rw [c.num_signed hk]
  exact atMostPow_i2f (by omega)

/-- The exact difference has at most 20 bits. -/
theorem atMost_diff (c : CalSlot) (adcT : BitVec 20) (s : Bool) (e : Nat) :
    AtMost (.fin s (((adcT.toNat : Int) - 16 * (c.coef[0]).toNat).natAbs * 2 ^ e)) ((2 ^ 20 - 1) * 2 ^ e) := by
  have hT := adcT.isLt
  have h1 := (c.coef[0]).isLt
  exact ⟨s, _, rfl, Nat.mul_le_mul_right _ (by omega)⟩

theorem CalSlot.diffA_atMost (c : CalSlot) (adcT : BitVec 20) : AtMost (c.diffA adcT) ((2 ^ 20 - 1) * 2 ^ 1060) := by
  rw [c.diffA_eq]; exact atMost_diff c adcT _ _

theorem CalSlot.diffD_atMost (c : CalSlot) (adcT : BitVec 20) : AtMost (c.diffD adcT) ((2 ^ 20 - 1) * 2 ^ 1057) := by
  rw [c.diffD_eq]; exact atMost_diff c adcT _ _

/-- A bound of 20 bits at exponent `e` lies below the power of two that has one bit more. -/
theorem bits20_lt {e k : Nat} (h : e + 20 = k + 1074) : (2 ^ 20 - 1) * 2 ^ e < 2 ^ k * one := by
  rw [one_eq, ← pow_add, ← h, pow_add, mul_comm (2 ^ e)]
  exact Nat.mul_lt_mul_of_pos_right (by norm_num) (Nat.two_pow_pos e)

theorem CalSlot.diffD_atMostPow (c : CalSlot) (adcT : BitVec 20) : AtMostPow (c.diffD adcT) 3 :=
  (c.diffD_atMost adcT).mono (bits20_lt (e := 1057) (k := 3) rfl).le

/-- v1 = a*T2 of R122. -/
theorem CalSlot.v1_atMost (c : CalSlot) (adcT : BitVec 20) :
    AtMost (fmul (c.diffA adcT) (c.num 1)) ((2 ^ 20 - 1) * 2 ^ 1075) :=
  atMost_fmul_pow (c.diffA_atMost adcT) (c.num_signed_atMostPow (by decide)) (by norm_num) rfl (by norm_num)

/-- v2 = d*d*T3 of R122. -/
theorem CalSlot.v2_atMost (c : CalSlot) (adcT : BitVec 20) :
    AtMost (fmul (fmul (c.diffD adcT) (c.diffD adcT)) (c.num 2)) ((2 ^ 20 - 1) * 2 ^ 1075) :=
  atMost_fmul_pow (k := 1075)
    (atMost_fmul_pow (k := 1060) (c.diffD_atMost adcT) (c.diffD_atMostPow adcT) (by norm_num) rfl (by norm_num))
    (c.num_signed_atMostPow (by decide)) (by norm_num) rfl (by norm_num)

/-- The bound on v1 and v2, as an integer. -/
theorem bits20_eq_int : (2 ^ 20 - 1) * 2 ^ 1075 = (2 ^ 21 - 2) * one := by
  rw [one_eq, two_pow_split (a := 1) (b := 1074) rfl, ← Nat.mul_assoc]
  norm_num

theorem CalSlot.tFine_atMost (c : CalSlot) (adcT : BitVec 20) : AtMost (c.tFine adcT) ((2 ^ 22 - 4) * one) := by
  have hv1 := c.v1_atMost adcT
  have hv2 := c.v2_atMost adcT
  rw [bits20_eq_int] at hv1 hv2
  rw [c.tFine_eq]
  exact atMost_fadd_int hv1 hv2 (by norm_num) (by norm_num)

/-- t_fine/2 - 64000 is below 2^22, since t_fine/2 is below 2^21. -/
theorem presQ1_atMost {tf : F64} (h : AtMost tf ((2 ^ 22 - 4) * one)) : AtMost (presQ1 tf) ((2 ^ 22 - 1) * one) := by
  have hhalf : AtMost (fdiv tf (lit 2)) ((2 ^ 21 - 2) * one) :=
    atMost_fdiv h le_rfl (Nat.mul_pos Nat.two_pos F64.one_pos) (onGrid_int (by norm_num)) (lit_mag_lt_limit (by norm_num))
      (Nat.le_of_eq (by ring))
  exact atMost_fadd_int hhalf (atMost_lit 64000).neg (by norm_num) (by norm_num)

/-! ## The pressure chain -/

section
variable (g : SqGroup) (c : CalSlot) {q1 : F64}

/-- q2b of R123. -/
theorem presQ2_atMost (h : AtMostPow q1 22) : AtMost (presQ2 c q1) ((2 ^ 43 + 2 ^ 31) * one) := by
  have hsquare : AtMostPow (fdiv (fmul (fmul q1 q1) (c.num 8)) (lit 32768)) 44 :=
    atMostPow_fdiv_lit (j := 15) (atMostPow_fmul (atMostPow_fmul h h (by norm_num)) (c.num_signed_atMostPow (by decide))
      (by norm_num)) (by norm_num) (by norm_num)
  have hlinear : AtMostPow (fmul (fmul q1 (c.num 7)) (lit 2)) 38 :=
    atMostPow_fmul (atMostPow_fmul h (c.num_signed_atMostPow (by decide)) (by norm_num)) (atMostPow_lit (k := 1) le_rfl)
      (by norm_num)
  have hquarter : AtMostPow (fdiv (fadd (fdiv (fmul (fmul q1 q1) (c.num 8)) (lit 32768))
      (fmul (fmul q1 (c.num 7)) (lit 2))) (lit 4)) 43 :=
    atMostPow_fdiv_lit (j := 2) (atMostPow_fadd hsquare (hlinear.mono (by norm_num)) (by norm_num)) (by norm_num)
      (by norm_num)
  have hconst : AtMostPow (fmul (c.num 6) (lit 65536)) 31 :=
    atMostPow_fmul (c.num_signed_atMostPow (by decide)) (atMostPow_lit (k := 16) le_rfl) (by norm_num)
  exact atMost_fadd_int hquarter hconst le_rfl (by norm_num)

theorem presQ1b_atMostPow (h : AtMostPow q1 22) : AtMostPow (presQ1b g c q1) 22 := by
  have hsquare : AtMostPow (fdiv (sq g (c.num 5) q1) (lit 524288)) 40 :=
    atMostPow_fdiv_lit (j := 19) (atMostPow_sq g (c.num_signed_atMostPow (by decide)) h (by norm_num)) (by norm_num)
      (by norm_num)
  have hlinear : AtMostPow (fmul (c.num 4) q1) 37 :=
    atMostPow_fmul (c.num_signed_atMostPow (by decide)) h (by norm_num)
  exact atMostPow_fdiv_lit (j := 19) (atMostPow_fadd hsquare (hlinear.mono (by norm_num)) (by norm_num)) (by norm_num)
    (by norm_num)

theorem presFactor_atMostPow (h : AtMostPow q1 22) : AtMostPow (presFactor g c q1) 8 :=
  atMostPow_fadd (atMostPow_lit (by norm_num))
    (atMostPow_fdiv_lit (j := 15) (presQ1b_atMostPow g c h) (by norm_num) (by norm_num)) (by norm_num)

theorem presDivisor_atMostPow (h : AtMostPow q1 22) : AtMostPow (presDivisor g c q1) 24 :=
  atMostPow_fmul (presFactor_atMostPow g c h) (c.num_atMostPow 3) (by norm_num)

end

/-- A nonzero divisor is at least 2^-53: its first factor is, and P1 is then a nonzero integer (R126). -/
theorem presDivisor_ge {g : SqGroup} {c : CalSlot} {q1 : F64} {s : Bool} {m : Nat} (h : AtMostPow q1 22)
    (hd : presDivisor g c q1 = .fin s m) (hm : m ≠ 0) : 2 ^ 1021 ≤ m := by
  obtain ⟨t, f, hf, -⟩ := presFactor_atMostPow g c h
  have hP1 : c.num 3 = .fin false ((c.coef[3]).toNat * one) := (c.num_unsigned (.inr rfl)).trans (i2f_natCast _)
  rw [presDivisor_eq, hf, hP1] at hd
  obtain ⟨-, rfl, -⟩ := round_eq_fin_imp hd
  have hne : f * ((c.coef[3]).toNat * one) ≠ 0 := by
    intro h0
    rw [h0] at hm
    exact hm (by simpa using roundMag_of_onGrid (y := 0) F64.one_pos (dvd_zero _))
  obtain ⟨hf0, hP0⟩ := mul_ne_zero_iff.1 hne
  have hfactor : 2 ^ 1021 ≤ f := one_add_ge (holdable_fdiv _ _) hf hf0
  exact le_roundMag F64.one_pos (onGrid_pow 1021)
    (Nat.mul_le_mul hfactor (Nat.le_mul_of_pos_left one (Nat.pos_of_mul_pos_right (Nat.pos_of_ne_zero hP0))))

/-- p1 of R123: the quotient by the divisor. -/
def presP1 (q2b q1c adcP : F64) : F64 :=
  fdiv (fmul (fsub (fsub (lit 1048576) adcP) (fdiv q2b (lit 4096))) (lit 6250)) q1c

theorem presBody_eq (g : SqGroup) (c : CalSlot) (q2b q1c adcP : F64) :
    presBody g c q2b q1c adcP =
      fdiv (fadd (presP1 q2b q1c adcP)
        (fdiv (fadd (fadd (fdiv (sq g (c.num 11) (presP1 q2b q1c adcP)) (lit 2147483648))
          (fdiv (fmul (presP1 q2b q1c adcP) (c.num 10)) (lit 32768))) (c.num 9)) (lit 16))) (lit 100) := rfl

theorem presP1_bound_lt : 6250 * (2 ^ 86 * one) < 2 ^ 99 * one := by
  rw [← Nat.mul_assoc]
  exact Nat.mul_lt_mul_of_pos_right (by norm_num) F64.one_pos

/-- The quotient, with 6250 kept as it is: 2^33 * 6250 over 2^-53. -/
theorem presP1_atMost {q2b adcP : F64} {s : Bool} {m : Nat} (hq : AtMost q2b ((2 ^ 43 + 2 ^ 31) * one))
    (hP : AtMostPow adcP 20) (hm : 2 ^ 1021 ≤ m) : AtMost (presP1 q2b (.fin s m) adcP) (6250 * (2 ^ 86 * one)) := by
  have hlevel : AtMostPow (fdiv q2b (lit 4096)) 32 :=
    atMostPow_fdiv_lit (j := 12) (AtMost.mono hq (Nat.mul_le_mul_right _ (by norm_num))) (by norm_num) (by norm_num)
  have hp0 : AtMostPow (fsub (lit 1048576) adcP) 21 := atMostPow_fsub (atMostPow_lit (by norm_num)) hP (by norm_num)
  have hdiff : AtMostPow (fsub (fsub (lit 1048576) adcP) (fdiv q2b (lit 4096))) 33 :=
    atMostPow_fsub (hp0.mono (by norm_num)) hlevel (by norm_num)
  have hnum : AtMost (fmul (fsub (fsub (lit 1048576) adcP) (fdiv q2b (lit 4096))) (lit 6250)) (2 ^ 33 * 6250 * one) :=
    atMost_fmul hdiff (atMost_lit 6250) (onGrid_int (by norm_num)) (lit_mag_lt_limit (by norm_num))
      (Nat.le_of_eq (by ring))
  have hgrid : OnGrid (6250 * (2 ^ 86 * one)) := by
    rw [one_eq, ← pow_add]
    exact onGrid_mul_pow (by norm_num)
  have hlt : 6250 * (2 ^ 86 * one) < limit := presP1_bound_lt.trans (pow_mul_one_lt_limit (by norm_num))
  refine atMost_fdiv hnum hm (by positivity) hgrid hlt (Nat.le_of_eq ?_)
  calc 2 ^ 33 * 6250 * one * one = 2 ^ 33 * 6250 * one * (2 ^ 53 * 2 ^ 1021) := by rw [← one_eq_split]
    _ = 6250 * (2 ^ 86 * one) * 2 ^ 1021 := by generalize 2 ^ 1021 = P; ring

theorem presBody_finite (g : SqGroup) (c : CalSlot) {q2b q1c adcP : F64} (h : AtMostPow (presP1 q2b q1c adcP) 99) :
    (presBody g c q2b q1c adcP).finite = true := by
  have hr1 : AtMostPow (fdiv (sq g (c.num 11) (presP1 q2b q1c adcP)) (lit 2147483648)) 182 :=
    atMostPow_fdiv_lit (j := 31) (atMostPow_sq g (c.num_signed_atMostPow (by decide)) h (by norm_num)) (by norm_num)
      (by norm_num)
  have hr2 : AtMostPow (fdiv (fmul (presP1 q2b q1c adcP) (c.num 10)) (lit 32768)) 99 :=
    atMostPow_fdiv_lit (j := 15) (atMostPow_fmul h (c.num_signed_atMostPow (by decide)) (by norm_num)) (by norm_num)
      (by norm_num)
  have hterms := atMostPow_fadd (atMostPow_fadd hr1 (hr2.mono (by norm_num)) (by norm_num))
    ((c.num_signed_atMostPow (k := 9) (by decide)).mono (by norm_num)) (by norm_num)
  have hcorr := atMostPow_fdiv_lit (j := 4) (n := 16) (k := 180) hterms (by norm_num) (by norm_num)
  have hsum := atMostPow_fadd (h.mono (by norm_num)) hcorr (by norm_num)
  rw [presBody_eq]
  exact (atMostPow_fdiv_lit (j := 6) (n := 100) (k := 175) hsum (by norm_num) (by norm_num)).finite

/-! ## The results of COMP_PT are finite (R126) -/

theorem CalSlot.tFine_atMostPow_tight (c : CalSlot) (adcT : BitVec 20) : AtMostPow (c.tFine adcT) 22 :=
  (c.tFine_atMost adcT).mono (Nat.mul_le_mul_right _ (by norm_num))

theorem CalSlot.q1_atMostPow (c : CalSlot) (adcT : BitVec 20) : AtMostPow (presQ1 (c.tFine adcT)) 22 :=
  (presQ1_atMost (c.tFine_atMost adcT)).mono (Nat.mul_le_mul_right _ (by norm_num))

theorem temperature_finite {tf : F64} (h : AtMostPow tf 22) : (temperature tf).finite = true :=
  (atMostPow_fdiv_lit (j := 12) (k := 10) h (by norm_num) (by norm_num)).finite

/-- p1 of a slot and two raw values, past the guard. -/
theorem CalSlot.p1_atMost (c : CalSlot) {g : SqGroup} (adcT adcP : BitVec 20) {s : Bool} {m : Nat}
    (hd : presDivisor g c (presQ1 (c.tFine adcT)) = .fin s m) (hm : m ≠ 0) :
    AtMost (presP1 (presQ2 c (presQ1 (c.tFine adcT))) (presDivisor g c (presQ1 (c.tFine adcT))) (i2f adcP.toNat))
      (6250 * (2 ^ 86 * one)) := by
  rw [hd]
  exact presP1_atMost (presQ2_atMost c (c.q1_atMostPow adcT)) (atMostPow_i2f adcP.isLt.le)
    (presDivisor_ge (c.q1_atMostPow adcT) hd hm)

theorem CalSlot.pressure_finite (c : CalSlot) (g : SqGroup) (adcT adcP : BitVec 20) :
    (c.pressure g adcT adcP).finite = true := by
  obtain ⟨s, m, hd, -⟩ := presDivisor_atMostPow g c (c.q1_atMostPow adcT)
  by_cases hz : feq (presDivisor g c (presQ1 (c.tFine adcT))) (lit 0) = true
  · rw [c.pressure_of_zero_divisor hz]; rfl
  · have hm : m ≠ 0 := by
      rintro rfl
      exact hz (by rw [hd]; exact feq_fin_zero s)
    have hbody := presBody_finite g c ((c.p1_atMost adcT adcP hd hm).mono presP1_bound_lt.le)
    exact (congrArg finite (if_neg hz)).trans hbody

/-! ## COMP_PT's errors and its one use of SQ_GROUP -/

variable {s : State} {slot : Fin 4}

theorem exec_compPt_notCalibrated (hx : slotExists s.cfg slot = true) (hv : (s.cal[slot]).valid = false) :
    exec (.compPt slot) s = .next ((s.setResValid 0#9).setErr .notCalibrated) := by
  show execCompPt slot s = _
  rw [execCompPt, onSlot_exists hx, hv]
  rfl

theorem exec_compPt_wrongLength (hx : slotExists s.cfg slot = true) (hv : (s.cal[slot]).valid = true)
    (hl : s.ibufLen.toNat ≠ 6) : exec (.compPt slot) s = .next ((s.setResValid 0#9).setErr .incompleteSample) := by
  show execCompPt slot s = _
  rw [execCompPt, onSlot_exists hx, if_pos hv]
  exact onLength_wrong hl

/-- The same state under another grouping. -/
def State.setSqGroup (s : State) (g : SqGroup) : State := { s with cfg := { s.cfg with sqGroup := g } }

/-- What a pressure does to the results is RES[1]'s alone. -/
theorem State.writePt_ne_pres (s : State) (a b b' c : F64) {k : Fin 9} (hk : k ≠ 1) :
    (s.writePt a b c).res[k] = (s.writePt a b' c).res[k] := by
  have h1 : 1 ≠ k.val := fun e => hk (Fin.ext e.symm)
  simp only [State.writePt, Fin.getElem_fin, Vector.getElem_set, if_neg h1]

/-- COMP_PT under any grouping ends in one state, but for the grouping itself and the pressure. -/
theorem exec_compPt_sqGroup {g h : SqGroup} {t u : State} (ht : exec (.compPt slot) (s.setSqGroup g) = .next t)
    (hu : exec (.compPt slot) (s.setSqGroup h) = .next u) :
    t = { u with cfg := t.cfg, res := t.res } ∧ ∀ k : Fin 9, k ≠ 1 → t.res[k] = u.res[k] := by
  cases hx : slotExists s.cfg slot with
  | false =>
    cases (exec_of_ill_formed (s := s.setSqGroup g) (i := .compPt slot) hx).symm.trans ht
    cases (exec_of_ill_formed (s := s.setSqGroup h) (i := .compPt slot) hx).symm.trans hu
    exact ⟨rfl, fun _ _ => rfl⟩
  | true =>
    cases hv : (s.cal[slot]).valid with
    | false =>
      cases (exec_compPt_notCalibrated (s := s.setSqGroup g) hx hv).symm.trans ht
      cases (exec_compPt_notCalibrated (s := s.setSqGroup h) hx hv).symm.trans hu
      exact ⟨rfl, fun _ _ => rfl⟩
    | true =>
      by_cases hl : s.ibufLen = 6#6
      · cases (exec_compPt_completes (s := s.setSqGroup g) (slotExists_iff.1 hx) hv hl).symm.trans ht
        cases (exec_compPt_completes (s := s.setSqGroup h) (slotExists_iff.1 hx) hv hl).symm.trans hu
        exact ⟨rfl, fun k hk => State.writePt_ne_pres _ _ _ _ _ hk⟩
      · have hlen : s.ibufLen.toNat ≠ 6 := fun e => hl (BitVec.eq_of_toNat_eq e)
        cases (exec_compPt_wrongLength (s := s.setSqGroup g) hx hv hlen).symm.trans ht
        cases (exec_compPt_wrongLength (s := s.setSqGroup h) hx hv hlen).symm.trans hu
        exact ⟨rfl, fun _ _ => rfl⟩

/-- The pressure reads a slot's coefficients and not its VALID. -/
theorem CalSlot.pressure_eq_of_coef (g : SqGroup) {c c' : CalSlot} (h : c.coef = c'.coef) (adcT adcP : BitVec 20) :
    c.pressure g adcT adcP = c'.pressure g adcT adcP := by
  obtain ⟨v, k⟩ := c
  obtain ⟨v', k'⟩ := c'
  cases h
  rfl

/-! ## The obligations -/

/-- Settles O35: VALID is checked before the length, and both after RES_VALID is cleared. -/
theorem compPtErrorsClearResValid : Obligations.CompPtErrorsClearResValid := by
  unfold Obligations.CompPtErrorsClearResValid
  intro s slot hx
  have hexists : slotExists s.cfg slot = true := slotExists_iff.2 hx
  exact ⟨fun hv => exec_compPt_notCalibrated hexists hv, fun hv hl =>
    exec_compPt_wrongLength hexists hv fun e => hl (BitVec.eq_of_toNat_eq e)⟩

/-- Settles O37: each bound from its operands', and the divisor's from the spacing of binary64 below 1. -/
theorem compPtIntermediatesAreBounded : Obligations.CompPtIntermediatesAreBounded := by
  unfold Obligations.CompPtIntermediatesAreBounded
  intro g c adcT adcP rawT a d tf q1 q2b q1b q1c p0 p1
  have hq1 : AtMostPow q1 22 := c.q1_atMostPow adcT
  have hint {n b : Nat} (h : n < b) : n * one < b * one := Nat.mul_lt_mul_of_pos_right h F64.one_pos
  have hbits : (2 ^ 20 - 1) * 2 ^ 1075 < 2 ^ 21 * one := bits20_lt rfl
  refine ⟨(c.diffA_atMost adcT).below (bits20_lt (k := 6) rfl), (c.v1_atMost adcT).below hbits,
    (c.diffD_atMost adcT).below (bits20_lt (k := 3) rfl), (c.v2_atMost adcT).below hbits,
    (c.tFine_atMost adcT).below (hint (by norm_num)), (presQ1_atMost (c.tFine_atMost adcT)).below (hint (by norm_num)),
    (presQ2_atMost c hq1).below (hint (by norm_num)), (presQ1b_atMostPow g c hq1).below (by norm_num), ?_,
    temperature_finite (c.tFine_atMostPow_tight adcT), c.pressure_finite g adcT adcP⟩
  obtain ⟨s, m, hd, -⟩ := presDivisor_atMostPow g c hq1
  refine ⟨s, m, hd, fun hm => ?_⟩
  have hp1 : AtMost p1 (6250 * (2 ^ 86 * one)) := c.p1_atMost adcT adcP hd hm
  have hsq : AtMostPow (sq g (c.num 11) p1) 213 :=
    atMostPow_sq g (c.num_signed_atMostPow (by decide)) (hp1.mono presP1_bound_lt.le) (by norm_num)
  exact ⟨presDivisor_ge hq1 hd hm, hp1.below presP1_bound_lt, hsq.below (by norm_num)⟩

/-- Settles O38: division by a power of two is exact, and the difference has at most 20 bits. -/
theorem temperatureDifferencesAreExact : Obligations.TemperatureDifferencesAreExact := by
  unfold Obligations.TemperatureDifferencesAreExact
  exact fun c adcT => ⟨c.diffA_eq adcT, c.diffD_eq adcT⟩

/-- Settles O39: only the pressure reads SQ_GROUP; the example is computed. -/
theorem groupingChangesOnlyThePressure : Obligations.GroupingChangesOnlyThePressure := by
  unfold Obligations.GroupingChangesOnlyThePressure
  refine ⟨fun s slot g h t u ht hu => exec_compPt_sqGroup ht hu, fun c hc => ?_⟩
  have hcoef : c.coef = #v[27504#16, 26435#16, 0xFC18#16, 36477#16, 0xD643#16, 3024#16, 2855#16, 140#16, 0xFFF9#16,
      15500#16, 0xC6F8#16, 6000#16] := Vector.toList_inj.1 hc
  have hslot (g : SqGroup) (adcT adcP : BitVec 20) := CalSlot.pressure_eq_of_coef g (c' := ⟨true, _⟩) hcoef adcT adcP
  rw [hslot, hslot]
  decide +kernel

end Sys2Proof.Machine
end

section
/-! What a command does, said once for all eleven: the state where it completes, the state where it raises, and the frames that
follow (44_control.md R160, R165; 60_exceptions.md R171). -/

namespace Sys2Proof.Machine

variable {s t : State} {i : Instr}

/-! ## Completing and raising -/

/-- `s` with what command `i` stores where no check fails, ERR left aside. -/
def State.completed (s : State) : Instr → State
  | .nop => s
  | .decBe16 off => s.setIres ((s.be16At off.val).zeroExtend 32)
  | .decLe16 off => s.setIres ((s.le16At off.val).zeroExtend 32)
  | .dec20 off => s.setIres ((s.dec20At off.val).zeroExtend 32)
  | .toS16 => s.setIres (BitVec.ofInt 32 (toSigned16 (s.ires.extractLsb' 0 16)))
  | .calLoad slot => s.setCal slot ⟨true, s.calBlock⟩
  | .calRelease slot => s.setCal slot CalSlot.empty
  | .compPt slot =>
    (s.setResValid 0#9).writePt (temperature ((s.cal[slot]).tFine (s.dec20At 0)))
      ((s.cal[slot]).pressure s.cfg.sqGroup (s.dec20At 0) (s.dec20At 3)) ((s.cal[slot]).tFine (s.dec20At 0))
  | .compRh => (s.setResValid 0#9).writeRh (rhTemperature (s.be16At 0)) (rhHumidity (s.be16At 3))
  | .compLux =>
    (s.setResValid 0#9).writeLux (luxClamp s.luxEstimate) (s.le16At 0) (s.le16At 2) (s.le16At 4) (s.le16At 6)
  | .crcRh =>
    s.setCrc true (Config.crc8 (s.byte 0) (s.byte 1) == s.byte 2) (Config.crc8 (s.byte 3) (s.byte 4) == s.byte 5)

/-- Fields out of range are an error of the command. -/
theorem errorOf_of_ill_formed (h : i.wf s.cfg = false) : errorOf s i = .illegalCmd := by
  have hbytes {off : Fin 32} {w : Nat} (hf : offFits off w = false) : errorOf.bytesError s off w = .illegalCmd :=
    if_pos (not_le.1 (of_decide_eq_false hf))
  cases i with
  | nop | toS16 | compRh | compLux | crcRh => cases h
  | decBe16 _ | decLe16 _ | dec20 _ => exact hbytes h
  | calLoad _ | calRelease _ | compPt _ => exact if_pos (by simpa [Instr.wf] using h)

theorem wf_of_errorOf_ok (h : errorOf s i = .ok) : i.wf s.cfg = true := by
  by_contra hw
  rw [errorOf_of_ill_formed (Bool.eq_false_iff.2 hw)] at h
  cases h

/-- The three fetching codec commands share this shape. -/
theorem eq_of_onBytes_ok {off : Fin 32} {w : Nat} {v : Word} (h : onBytes off w s (codecResult v s) = .next t)
    (hok : t.err = .ok) : t = (s.setIres v).setOk := by
  rcases onBytes_cases h with ⟨-, -, hrun⟩ | ⟨-, -, rfl⟩ | ⟨-, rfl⟩
  · exact complete_eq_next.1 hrun
  all_goals cases hok

/-- A command that ends with OK has stored what it stores. -/
theorem eq_completed_of_ok (h : exec i s = .next t) (hok : t.err = .ok) : t = (s.completed i).setOk := by
  cases i with
  | nop => exact execNop_cases h
  | decBe16 _ | decLe16 _ | dec20 _ => exact eq_of_onBytes_ok h hok
  | toS16 => exact execToS16_cases h
  | calLoad _ =>
    rcases execCalLoad_cases h with ⟨-, -, -, ht⟩ | ⟨-, -, -, rfl⟩ | ⟨-, -, rfl⟩ | ⟨-, rfl⟩
    · exact ht
    all_goals cases hok
  | calRelease _ =>
    rcases execCalRelease_cases h with ⟨-, ht⟩ | ⟨-, rfl⟩
    · exact ht
    · cases hok
  | compPt _ =>
    rcases execCompPt_cases h with ⟨-, -, -, ht⟩ | ⟨-, -, -, rfl⟩ | ⟨-, -, rfl⟩ | ⟨-, rfl⟩
    · exact ht
    all_goals cases hok
  | compRh =>
    rcases execCompRh_cases h with ⟨-, ht⟩ | ⟨-, rfl⟩
    · exact ht
    · cases hok
  | compLux => exact (exec_compLux_ok h hok).2
  | crcRh =>
    rcases crcRhWith_cases h with ⟨-, ht⟩ | ⟨-, rfl⟩
    · exact ht
    · cases hok

/-- Where no check fails a command completes. -/
theorem exec_completes (h : errorOf s i = .ok) : exec i s = .next (s.completed i).setOk := by
  obtain ⟨t, ht⟩ := exec_answers_next i s
  rw [ht, eq_completed_of_ok ht ((exec_endsAs (wf_of_errorOf_ok h) ht).err.trans h)]

/-- The state in which command `i` raises: past decode its clearing writes have been made (60_exceptions.md R171). -/
def State.atError (s : State) (i : Instr) : State := if i.wf s.cfg then s.afterClearing i else s

theorem State.atError_of_wf (h : i.wf s.cfg = true) : s.atError i = s.afterClearing i := if_pos h

/-- A command with no clearing writes raises in the state it was given. -/
theorem State.atError_of_clears_none (hr : clearsResults i = false) (hc : clearsCrc i = false) : s.atError i = s := by
  simp [State.atError, State.afterClearing, hr, hc]

/-- Where a check fails the first of them is raised. -/
theorem exec_raises (h : errorOf s i ≠ .ok) : exec i s = .next ((s.atError i).setErr (errorOf s i)) := by
  cases hw : i.wf s.cfg with
  | true =>
    obtain ⟨t, ht⟩ := exec_answers_next i s
    cases exec_endsAs hw ht with
    | completes hcode _ _ => exact absurd hcode h
    | raises _ hcode hstate => rw [ht, hstate, hcode, State.atError_of_wf hw]
  | false => rw [exec_of_ill_formed hw, errorOf_of_ill_formed hw, State.atError, hw]; rfl

/-- A command completes, or raises: nothing else. -/
theorem exec_ends (h : exec i s = .next t) :
    (errorOf s i = .ok ∧ t = (s.completed i).setOk) ∨
      (errorOf s i ≠ .ok ∧ t = (s.atError i).setErr (errorOf s i)) := by
  by_cases hok : errorOf s i = .ok
  · exact .inl ⟨hok, Host.Outcome.next.inj (h.symm.trans (exec_completes hok))⟩
  · exact .inr ⟨hok, Host.Outcome.next.inj (h.symm.trans (exec_raises hok))⟩

/-! ## Frames -/

/-- The results that a command's valid bits do not name stay as they were. -/
theorem State.completed_res (s : State) (hi : clearsResults i = true) {k : Fin 9}
    (hk : (s.completed i).resValid.getLsbD k.val = false) : (s.completed i).res[k] = s.res[k] := by
  have hPt : ∀ k : Fin 9, validPt.getLsbD k.val = false → 2 ≤ k.val ∧ k.val ≤ 7 := by decide
  have hRh : ∀ k : Fin 9, validRh.getLsbD k.val = false → k ≠ 0 ∧ k ≠ 2 := by decide
  have hLux : ∀ k : Fin 9, validLux.getLsbD k.val = false → k.val < 3 ∨ k.val = 8 := by decide
  cases i with
  | compPt _ => exact State.writePt_other _ _ _ _ k (hPt k hk)
  | compRh => exact State.writeRh_other _ _ _ k (hRh k hk)
  | compLux => exact State.writeLux_other _ _ _ _ _ _ k (hLux k hk)
  | _ => cases hi

/-! ## The obligations -/

/-- Settles O53: none of these commands has a clearing write, and each stores in IRES alone, NOP in nothing. -/
theorem codecCommandsWriteOnlyIres : Obligations.CodecCommandsWriteOnlyIres := by
  unfold Obligations.CodecCommandsWriteOnlyIres
  intro i s t off hi h
  rcases exec_ends h with ⟨-, rfl⟩ | ⟨he, rfl⟩
  · rcases hi with rfl | rfl | rfl | rfl | rfl <;>
      exact ⟨rfl, fun hne => absurd rfl hne, fun _ => rfl, fun hnop => by cases hnop <;> rfl⟩
  · have hnone : clearsResults i = false ∧ clearsCrc i = false := by
      rcases hi with rfl | rfl | rfl | rfl | rfl <;> exact ⟨rfl, rfl⟩
    rw [State.atError_of_clears_none hnone.1 hnone.2]
    exact ⟨rfl, fun _ => ⟨rfl, rfl⟩, fun hok => absurd hok he, fun _ => rfl⟩

/-- Settles O54: neither command has a clearing write, and each stores in its slot alone. -/
theorem calibrationCommandsWriteOnlyTheirSlot : Obligations.CalibrationCommandsWriteOnlyTheirSlot := by
  unfold Obligations.CalibrationCommandsWriteOnlyTheirSlot
  intro i s t slot hi h
  rcases exec_ends h with ⟨-, rfl⟩ | ⟨he, rfl⟩
  · obtain ⟨c, hc⟩ : ∃ c, s.completed i = s.setCal slot c := by
      rcases hi with rfl | rfl <;> exact ⟨_, rfl⟩
    rw [hc]
    exact ⟨rfl, fun k hk => setCal_other s hk.symm c, fun hne => absurd rfl hne, fun _ => rfl⟩
  · have hnone : clearsResults i = false ∧ clearsCrc i = false := by rcases hi with rfl | rfl <;> exact ⟨rfl, rfl⟩
    rw [State.atError_of_clears_none hnone.1 hnone.2]
    exact ⟨rfl, fun _ _ => rfl, fun _ => ⟨rfl, rfl⟩, fun hok => absurd hok he⟩

/-- Settles O55: past decode RES_VALID is cleared first, and only a completion stores results, those its valid bits name. -/
theorem compensationCommandsWriteOnlyTheirResults : Obligations.CompensationCommandsWriteOnlyTheirResults := by
  unfold Obligations.CompensationCommandsWriteOnlyTheirResults
  intro i s t slot hi h
  have hclears : clearsResults i = true := by rcases hi with rfl | rfl | rfl <;> rfl
  rcases exec_ends h with ⟨-, rfl⟩ | ⟨he, rfl⟩
  · refine ⟨?_, fun k hk => s.completed_res hclears hk, fun _ => ?_, fun hne => absurd rfl hne⟩ <;>
      rcases hi with rfl | rfl | rfl
    any_goals rfl
    all_goals exact ⟨rfl, rfl⟩
  · have hstate : s.atError i = if i.wf s.cfg then s.setResValid 0#9 else s := by
      rcases hi with rfl | rfl | rfl <;> rfl
    rw [hstate]
    cases i.wf s.cfg with
    | true => exact ⟨rfl, fun _ _ => rfl, fun hok => absurd hok he, fun _ => ⟨rfl, rfl, fun _ => rfl⟩⟩
    | false => exact ⟨rfl, fun _ _ => rfl, fun hok => absurd hok he, fun _ => ⟨rfl, rfl, fun hw => by cases hw⟩⟩

/-- Settles O56: CRC_RH always decodes, clears the three bits, and stores nothing else. -/
theorem crcRhWritesOnlyTheCrcBits : Obligations.CrcRhWritesOnlyTheCrcBits := by
  unfold Obligations.CrcRhWritesOnlyTheCrcBits
  intro s t h
  rcases exec_ends h with ⟨-, rfl⟩ | ⟨he, rfl⟩
  · exact ⟨rfl, fun _ => ⟨rfl, rfl⟩, fun hne => absurd rfl hne⟩
  · exact ⟨rfl, fun hok => absurd hok he, fun _ => ⟨rfl, rfl, rfl, rfl⟩⟩

end Sys2Proof.Machine
end

section
/-! The commands where they complete and where they raise, in the spec's own numbers: the Register Codec, the Calibration Store,
and the humidity and colour devices (40_codec.md, 41_calibration.md, 43_comp_humidity_light.md). -/

namespace Sys2Proof.Machine

open F64

variable {s : State}

/-! ## Operands as numbers -/

theorem be16_toNat (hi lo : Byte) : (be16 hi lo).toNat = 256 * hi.toNat + lo.toNat := by
  rw [← le16_eq_be16_swap, le16_toNat, Nat.add_comm]

theorem State.be16At_toNat (s : State) {i : Nat} (h : i + 1 < 24) :
    (s.be16At i).toNat = 256 * (s.ibuf[i]).toNat + (s.ibuf[i + 1]).toNat := by
  rw [State.be16At, be16_toNat, byte_of_lt s (by omega), byte_of_lt s h]

/-- TO_S16 leaves the 16 bits it reads where they are. -/
theorem extract_ofInt_toSigned16 (v : Half) : (BitVec.ofInt 32 (toSigned16 v)).extractLsb' 0 16 = v := by
  have hext : BitVec.ofInt 32 (toSigned16 v) = v.signExtend 32 := by rw [toSigned16_eq_toInt]; rfl
  rw [hext]
  ext k hk
  have hk32 : k < 32 := by omega
  simp [BitVec.getElem_signExtend, hk, hk32]

/-! ## Codes -/

/-- The codec's bytes lie in IBUF and within IBUF_LEN. -/
theorem bytesError_ok {off : Fin 32} {w : Nat} (hf : off.val + w ≤ 24) (hl : off.val + w ≤ s.ibufLen.toNat) :
    errorOf.bytesError s off w = .ok := by
  rw [bytesError_of_fits (offFits_iff.2 hf), if_neg (not_lt.2 hl)]

theorem bytesError_short {off : Fin 32} {w : Nat} (hf : off.val + w ≤ 24) (hl : s.ibufLen.toNat < off.val + w) :
    errorOf.bytesError s off w = .incompleteSample := by
  rw [bytesError_of_fits (offFits_iff.2 hf), if_pos hl]

/-- A codec command raises in the state it was given. -/
theorem exec_codec_raises {i : Instr} (hr : clearsResults i = false) (hc : clearsCrc i = false)
    (he : errorOf s i = .incompleteSample) : exec i s = .next (s.setErr .incompleteSample) := by
  rw [exec_raises (by rw [he]; decide), State.atError_of_clears_none hr hc, he]

theorem errorOf_calLoad_invalid {slot : Fin 4} (hx : slot.val < s.cfg.nCalSlots) (hv : (s.cal[slot]).valid = false) :
    errorOf s (.calLoad slot) = if s.ibufLen.toNat = 24 then .ok else .incompleteCal := by
  rw [errorOf_calLoad (slotExists_iff.2 hx), hv]
  rfl

theorem exec_calLoad_completes {slot : Fin 4} (hx : slot.val < s.cfg.nCalSlots) (hv : (s.cal[slot]).valid = false)
    (hl : s.ibufLen = 24#6) : exec (.calLoad slot) s = .next (s.setCal slot ⟨true, s.calBlock⟩).setOk :=
  exec_completes (by rw [errorOf_calLoad_invalid hx hv, hl]; rfl)

theorem exec_calLoad_incomplete {slot : Fin 4} (hx : slot.val < s.cfg.nCalSlots) (hv : (s.cal[slot]).valid = false)
    (hl : s.ibufLen ≠ 24#6) : exec (.calLoad slot) s = .next (s.setErr .incompleteCal) := by
  have he : errorOf s (.calLoad slot) = .incompleteCal := by
    have hlen : ¬s.ibufLen.toNat = 24 := fun e => hl (BitVec.eq_of_toNat_eq e)
    rw [errorOf_calLoad_invalid hx hv, if_neg hlen]
  rw [exec_raises (by rw [he]; decide), State.atError_of_clears_none rfl rfl, he]

/-- Coefficient k is the little-endian pair at IBUF[2k] (41_calibration.md R110, R111). -/
theorem State.calBlock_toNat (s : State) (k : Fin 12) :
    (s.calBlock[k]).toNat = (s.ibuf[2 * k.val]).toNat + 256 * (s.ibuf[2 * k.val + 1]).toNat := by
  rw [← s.le16At_toNat (i := 2 * k.val) (by omega)]
  simp [State.calBlock]

/-- The length error of the two humidity commands. -/
theorem errorOf_rh_wrong {i : Instr} (hi : i = .compRh ∨ i = .crcRh) (hl : s.ibufLen ≠ 6#6) :
    errorOf s i = .incompleteSample := by
  have hlen : ¬s.ibufLen.toNat = 6 := fun e => hl (BitVec.eq_of_toNat_eq e)
  rcases hi with rfl | rfl
  · rw [errorOf_compRh, if_neg hlen]
  · rw [errorOf_crcRh, if_neg hlen]

theorem errorOf_rh_ok {i : Instr} (hi : i = .compRh ∨ i = .crcRh) (hl : s.ibufLen = 6#6) : errorOf s i = .ok := by
  rcases hi with rfl | rfl
  · rw [errorOf_compRh, hl]; rfl
  · rw [errorOf_crcRh, hl]; rfl

theorem exec_compRh_completes (hl : s.ibufLen = 6#6) :
    exec .compRh s = .next ((s.setResValid 0#9).writeRh (rhTemperature (s.be16At 0)) (rhHumidity (s.be16At 3))).setOk :=
  exec_completes (errorOf_rh_ok (.inl rfl) hl)

theorem exec_compRh_raises (hl : s.ibufLen ≠ 6#6) :
    exec .compRh s = .next ((s.setResValid 0#9).setErr .incompleteSample) := by
  have he := errorOf_rh_wrong (s := s) (.inl rfl) hl
  rw [exec_raises (by rw [he]; decide), he]
  rfl

theorem exec_crcRh_completes (hl : s.ibufLen = 6#6) : exec .crcRh s = .next (s.completed .crcRh).setOk :=
  exec_completes (errorOf_rh_ok (.inr rfl) hl)

theorem exec_crcRh_raises (hl : s.ibufLen ≠ 6#6) :
    exec .crcRh s = .next ((s.setCrc false false false).setErr .incompleteSample) := by
  have he := errorOf_rh_wrong (s := s) (.inr rfl) hl
  rw [exec_raises (by rw [he]; decide), he]
  rfl

/-- 175 * raw and 100 * raw as the spec writes them, over the natural number that the two bytes spell. -/
theorem rhTemperature_of_toNat {raw : Half} {n : Nat} (h : raw.toNat = n) :
    rhTemperature raw = fadd (i2f (-45)) (fdiv (i2f (175 * n : Nat)) (lit 65535)) := by
  rw [← h, Nat.cast_mul]; rfl

theorem rhHumidity_of_toNat {raw : Half} {n : Nat} (h : raw.toNat = n) :
    rhHumidity raw = clamp01 (fdiv (i2f (100 * n : Nat)) (lit 65535)) := by
  rw [← h, Nat.cast_mul]; rfl

/-! ## The lux estimate under the reset coefficients -/

theorem atMost_iff_units {x : F64} {b : Nat} : AtMost x b ↔ x.finite = true ∧ x.units.natAbs ≤ b := by
  cases x with
  | nan | inf => simp [AtMost, finite]
  | fin s m => simp [AtMost, finite, units, natAbs_signed]

/-- KR lies within 1 and KC within 2, so the estimate lies within 3 * 65535 (R150). -/
theorem luxSum_reset_atMost (clear red : Half) :
    AtMost (luxSum (ofBits State.reset.luxKr) (ofBits State.reset.luxKc) clear red) (196605 * one) := by
  have hkr : AtMost (ofBits State.reset.luxKr) (1 * one) := atMost_iff_units.2 (by decide +kernel)
  have hkc : AtMost (ofBits State.reset.luxKc) (2 * one) := atMost_iff_units.2 (by decide +kernel)
  have hcount (raw : Half) : AtMost (count raw) (65535 * one) := atMost_i2f (by have := raw.isLt; omega)
  have hproduct {k : F64} {n : Nat} (h : AtMost k (n * one)) (hn : n ≤ 2) (raw : Half) :
      AtMost (fmul k (count raw)) (n * 65535 * one) :=
    atMost_fmul h (hcount raw) (onGrid_int (by omega)) (lit_mag_lt_limit (by omega)) (Nat.le_of_eq (by ring))
  exact atMost_fadd_int (hproduct hkr (by norm_num) red) (hproduct hkc le_rfl clear) (by norm_num) (by norm_num)

/-! ## The obligations: the Register Codec -/

/-- Settles O22: the fetch passes and the pair is the big-endian one. -/
theorem decBe16CombinesBigEndian : Obligations.DecBe16CombinesBigEndian := by
  unfold Obligations.DecBe16CombinesBigEndian
  intro s off hf hl
  refine ⟨(s.be16At off.val).zeroExtend 32, exec_completes (i := .decBe16 off) (bytesError_ok hf hl), ?_⟩
  exact (BitVec.toNat_setWidth_of_le (by decide)).trans (s.be16At_toNat (by omega))

/-- Settles O23: the fetch passes and the pair is the little-endian one. -/
theorem decLe16CombinesLittleEndian : Obligations.DecLe16CombinesLittleEndian := by
  unfold Obligations.DecLe16CombinesLittleEndian
  intro s off hf hl
  refine ⟨(s.le16At off.val).zeroExtend 32, exec_completes (i := .decLe16 off) (bytesError_ok hf hl), ?_⟩
  exact (BitVec.toNat_setWidth_of_le (by decide)).trans (s.le16At_toNat (by omega))

/-- Settles O24: the fetch passes and the value is the packed one. -/
theorem dec20UnpacksTwentyBits : Obligations.Dec20UnpacksTwentyBits := by
  unfold Obligations.Dec20UnpacksTwentyBits
  intro s off hf hl
  refine ⟨(s.dec20At off.val).zeroExtend 32, exec_completes (i := .dec20 off) (bytesError_ok hf hl), ?_⟩
  exact (BitVec.toNat_setWidth_of_le (by decide)).trans (s.dec20At_toNat (by omega))

/-- Settles O25: the signed reading fits in IRES, and its low 16 bits are those it was read from. -/
theorem toS16ReinterpretsAsSigned : Obligations.ToS16ReinterpretsAsSigned := by
  unfold Obligations.ToS16ReinterpretsAsSigned
  intro s
  refine ⟨BitVec.ofInt 32 (toSigned16 (s.ires.extractLsb' 0 16)), exec_completes (i := .toS16) rfl, ?_, ?_⟩
  · intro u
    have hlow : (s.ires.extractLsb' 0 16).toNat = u := by simp [u]
    rw [toInt_ofInt_toSigned16, toSigned16, hlow]
  · have htwice := exec_completes (s := (s.completed .toS16).setOk) (i := .toS16) rfl
    have hsame : ((s.completed .toS16).setOk.completed .toS16).setOk = (s.completed .toS16).setOk := by
      simp only [State.completed, State.setOk_ires, State.setIres_ires, extract_ofInt_toSigned16]
      rfl
    exact htwice.trans (congrArg _ hsame)

/-- Settles O26: past decode the three commands have the length check alone, which a length above 24 always passes. -/
theorem codecFetchChecksTheLength : Obligations.CodecFetchChecksTheLength := by
  unfold Obligations.CodecFetchChecksTheLength
  intro s off raises
  refine ⟨fun hf hl => ⟨?_, ?_⟩, fun hf hl => ?_, fun hl => ⟨fun hf => ⟨?_, ?_⟩, fun hf => ?_⟩⟩
  · exact exec_codec_raises (i := .decBe16 off) rfl rfl (bytesError_short hf hl)
  · exact exec_codec_raises (i := .decLe16 off) rfl rfl (bytesError_short hf hl)
  · exact exec_codec_raises (i := .dec20 off) rfl rfl (bytesError_short hf hl)
  · exact ⟨_, exec_completes (i := .decBe16 off) (bytesError_ok hf (by omega))⟩
  · exact ⟨_, exec_completes (i := .decLe16 off) (bytesError_ok hf (by omega))⟩
  · exact ⟨_, exec_completes (i := .dec20 off) (bytesError_ok hf (by omega))⟩

/-! ## The obligations: the Calibration Store -/

/-- Settles O28: the block's words are the little-endian pairs of IBUF. -/
theorem calLoadParsesTheBlock : Obligations.CalLoadParsesTheBlock := by
  unfold Obligations.CalLoadParsesTheBlock
  exact fun s slot hx hv hl => ⟨s.calBlock, exec_calLoad_completes hx hv hl, s.calBlock_toNat⟩

/-- Settles O30: a short block leaves the slot as it was, so it is not calibrated and can still be loaded. -/
theorem shortCalibrationBlockLeavesTheSlotInvalid : Obligations.ShortCalibrationBlockLeavesTheSlotInvalid := by
  unfold Obligations.ShortCalibrationBlockLeavesTheSlotInvalid
  intro s slot hx hv hl t
  refine ⟨exec_calLoad_incomplete hx hv hl, exec_compPt_notCalibrated (s := t) (slotExists_iff.2 hx) hv, fun b => ?_⟩
  have hload := exec_calLoad_completes (s := { t with ibuf := b, ibufLen := 24#6 }) hx hv rfl
  exact ⟨_, hload, congrArg CalSlot.valid (setCal_same _ slot _), rfl⟩

/-- Settles O31: the slot's VALID is not checked. -/
theorem calReleaseClearsTheSlot : Obligations.CalReleaseClearsTheSlot := by
  unfold Obligations.CalReleaseClearsTheSlot
  intro s slot hx
  have hok : errorOf s (.calRelease slot) = .ok := errorOf_calRelease (slotExists_iff.2 hx)
  exact ⟨CalSlot.empty, exec_completes hok, rfl, fun k => by simp [CalSlot.empty]⟩

/-! ## The obligations: the humidity and the colour device -/

/-- Settles O40: the two formulas are read off the big-endian pairs; the end points are computed. -/
theorem compRhConvertsTheSample : Obligations.CompRhConvertsTheSample := by
  unfold Obligations.CompRhConvertsTheSample
  intro temp hum
  refine ⟨fun s hl => ⟨_, exec_compRh_completes hl, ?_, ?_, fun k h0 h2 => ?_⟩, fun s hl => exec_compRh_raises hl, ?_, ?_⟩
  · exact (State.writeRh_temp _ _ _).trans (congrArg toBits (rhTemperature_of_toNat (s.be16At_toNat (by norm_num))))
  · exact (State.writeRh_hum _ _ _).trans (congrArg toBits (rhHumidity_of_toNat (s.be16At_toNat (by norm_num))))
  · exact State.writeRh_other _ _ _ k ⟨h0, h2⟩
  · intro w s hopc hrest
    have hword := execute_formatN (s := s) (parse_of_opc .compRh hopc) rfl
    exact (if_neg hrest).mp hword
  · decide +kernel

/-- Settles O42: CRC_RH has one check, its length, after the bits are cleared. -/
theorem crcRhComparesTheChecksums : Obligations.CrcRhComparesTheChecksums := by
  unfold Obligations.CrcRhComparesTheChecksums
  refine fun s => ⟨fun hl => ?_, fun hl => exec_crcRh_raises hl⟩
  rw [exec_crcRh_completes hl]
  simp only [State.completed, byte_of_lt s (show 0 < 24 by norm_num), byte_of_lt s (show 1 < 24 by norm_num),
    byte_of_lt s (show 2 < 24 by norm_num), byte_of_lt s (show 3 < 24 by norm_num), byte_of_lt s (show 4 < 24 by norm_num),
    byte_of_lt s (show 5 < 24 by norm_num), beq_eq_decide]
  rfl

/-- Settles O43: the two commands read IBUF and IBUF_LEN, which neither writes, and write different registers. -/
theorem crcRhAndCompRhCommute : Obligations.CrcRhAndCompRhCommute := by
  unfold Obligations.CrcRhAndCompRhCommute
  intro s t u ht hu
  by_cases hl : s.ibufLen = 6#6
  · obtain rfl := Host.Outcome.next.inj ((exec_crcRh_completes hl).symm.trans ht)
    obtain rfl := Host.Outcome.next.inj ((exec_compRh_completes hl).symm.trans hu)
    exact ⟨_, exec_compRh_completes hl, exec_crcRh_completes hl⟩
  · obtain rfl := Host.Outcome.next.inj ((exec_crcRh_raises hl).symm.trans ht)
    obtain rfl := Host.Outcome.next.inj ((exec_compRh_raises hl).symm.trans hu)
    exact ⟨_, exec_compRh_raises hl, exec_crcRh_raises hl⟩

/-- Settles O44: COMP_LUX takes the sample, and its raw values are the little-endian pairs of IBUF. -/
theorem compLuxEstimatesTheLight : Obligations.CompLuxEstimatesTheLight := by
  unfold Obligations.CompLuxEstimatesTheLight
  intro s hl pair kr kc x hkr hkc hx
  have hpair (k : Fin 12) : (s.le16At (2 * k.val)).toNat = pair k := s.le16At_toNat (by omega)
  have hcount (k : Fin 12) : count (s.le16At (2 * k.val)) = i2f (pair k : Nat) := by rw [count, hpair]
  have hsum : s.luxEstimate = x := by
    show fadd (fmul kr (count (s.le16At 2))) (fmul kc (count (s.le16At 0))) = x
    exact congrArg₂ fadd (congrArg (fmul kr) (hcount 1)) (congrArg (fmul kc) (hcount 0))
  have hfin : s.LuxFinite := ⟨hkr, hkc, hsum ▸ hx⟩
  refine ⟨s.afterCompLux.res, exec_compLux_completes hl hfin, ?_, ?_, ?_, ?_, ?_, fun k hk => ?_⟩
  · rw [s.afterCompLux_lux, hsum]; exact luxClamp_toBits x
  · exact (s.afterCompLux_count 0).trans (congrArg toBits (hcount 0))
  · exact (s.afterCompLux_count 1).trans (congrArg toBits (hcount 1))
  · exact (s.afterCompLux_count 2).trans (congrArg toBits (hcount 2))
  · exact (s.afterCompLux_count 3).trans (congrArg toBits (hcount 3))
  · exact State.writeLux_other _ _ _ _ _ _ k (hk.imp_right fun e => congrArg Fin.val e)

/-- Settles O48: the bound keeps the sum finite, and the reset coefficients are. -/
theorem resetCoefficientsNeverFail : Obligations.ResetCoefficientsNeverFail := by
  unfold Obligations.ResetCoefficientsNeverFail
  intro s hkr hkc hl
  have hsum := luxSum_reset_atMost (s.le16At 0) (s.le16At 2)
  rw [← hkr, ← hkc] at hsum
  refine ⟨hsum.below (Nat.mul_lt_mul_of_pos_right (by norm_num) F64.one_pos), _, exec_compLux_completes hl ⟨?_, ?_, hsum.finite⟩,
    rfl⟩
  · rw [hkr]; decide +kernel
  · rw [hkc]; decide +kernel

end Sys2Proof.Machine
end

section
/-! The host port: reads and writes by the register map, what each event can change, STATUS, the lux coefficients' halves and LDBUF
(10_state.md R23, R29; 20_memory.md R40 to R46; 30_encoding.md R79). -/

namespace Sys2Proof.Machine

variable {s t : State}

/-! ## The register at an offset -/

theorem eq_offset_of_toNat {off : Off} {r : Reg} (h : off.toNat = r.offsetNat) : off = r.offset :=
  BitVec.eq_of_toNat_eq (h.trans r.offset_toNat.symm)

theorem aligned_of_toNat {off : Off} {r : Reg} (h : off.toNat = r.offsetNat) : aligned off = true := by
  rw [eq_offset_of_toNat h]; exact r.offset_aligned

theorem State.writeAt_offset (s : State) {r : Reg} (v : Word) (h : r.present s.cfg = true) :
    s.writeAt r.offset v = s.writeReg r v := by
  simp only [State.writeAt, Reg.at_offset h]

/-- A reserved offset: no register that exists has it (20_memory.md R41). -/
theorem Reg.at_eq_none {cfg : Params} {off : Off} (ha : aligned off = true)
    (h : ∀ r : Reg, r.present cfg = true → r.offsetNat ≠ off.toNat) : Reg.at cfg off = none := by
  cases hat : Reg.at cfg off with
  | none => rfl
  | some r =>
    obtain ⟨hoff, hp⟩ := Reg.offset_of_at ha hat
    exact absurd (by rw [← hoff, r.offset_toNat]) (h r hp)

/-- The registers below 0x088, and the calibration registers from 0x100 to 0x1FF. -/
theorem Reg.offsetNat_range (r : Reg) : r.offsetNat < 0x088 ∨ ∃ c k, r = .cal c k := by
  cases r with
  | cal c k => exact .inr ⟨c, k, rfl⟩
  | _ => simp only [Reg.offsetNat]; omega

/-- The offsets between the calibration registers and the others, and above them all, are reserved. -/
theorem Reg.at_outside {cfg : Params} {off : Off} (ha : aligned off = true)
    (h : (0x088 ≤ off.toNat ∧ off.toNat < 0x100) ∨ 0x200 ≤ off.toNat) : Reg.at cfg off = none := by
  refine Reg.at_eq_none ha fun r _ hr => ?_
  rcases r.offsetNat_range with hlow | ⟨c, k, rfl⟩
  · omega
  · simp only [Reg.offsetNat] at hr; omega

/-- So are those of a slot that does not exist, and the four past the twelve coefficients of a slot. -/
theorem Reg.at_absent_cal {cfg : Params} {off : Off} {c : Fin 4} {k : Fin 16}
    (hoff : off.toNat = 0x100 + 0x40 * c.val + 4 * k.val) (h : 12 ≤ k.val ∨ cfg.nCalSlots ≤ c.val) :
    Reg.at cfg off = none := by
  refine Reg.at_eq_none ((aligned_iff off).2 (by omega)) fun r hp hr => ?_
  rcases r.offsetNat_range with hlow | ⟨c', k', rfl⟩
  · omega
  · have hslot : c'.val < cfg.nCalSlots := slotExists_iff.1 hp
    simp only [Reg.offsetNat] at hr
    omega

/-! ## A step over a host access -/

theorem step_read {off : Off} {rest : List PortEvent} (hp : s.port = .read off :: rest) (ha : aligned off = true) :
    step s = .next { s with port := rest, observed := s.observed ++ [s.readAt off] } :=
  (step_of_port hp).trans (if_pos ha)

theorem step_read_misaligned {off : Off} {rest : List PortEvent} (hp : s.port = .read off :: rest)
    (ha : off.toNat % 4 ≠ 0) : step s = .fault (.misalignedAccess off) :=
  (step_of_port hp).trans (if_neg (mt (aligned_iff off).1 ha))

theorem step_write_misaligned {off : Off} {v : Word} {rest : List PortEvent} (hp : s.port = .write off v :: rest)
    (ha : off.toNat % 4 ≠ 0) : step s = .fault (.misalignedAccess off) :=
  (step_of_port hp).trans (if_neg (mt (aligned_iff off).1 ha))

/-- A read of a register that exists returns it. -/
theorem step_read_reg {off : Off} {rest : List PortEvent} {r : Reg} (hp : s.port = .read off :: rest)
    (hr : off.toNat = r.offsetNat) (hx : r.present s.cfg = true) :
    step s = .next { s with port := rest, observed := s.observed ++ [s.readReg r] } := by
  rw [step_read hp (aligned_of_toNat hr), eq_offset_of_toNat hr, s.readAt_offset hx]

/-- A read of a reserved offset returns 0. -/
theorem step_read_reserved {off : Off} {rest : List PortEvent} (hp : s.port = .read off :: rest)
    (ha : aligned off = true) (hnone : Reg.at s.cfg off = none) :
    step s = .next { s with port := rest, observed := s.observed ++ [0#32] } := by
  rw [step_read hp ha, State.readAt, hnone]

theorem step_write_cmd {off : Off} {v : Word} {rest : List PortEvent} (hp : s.port = .write off v :: rest)
    (hr : off.toNat = Reg.offsetNat .cmd) : step s = execute v (s.setPort rest) := by
  obtain rfl := eq_offset_of_toNat hr
  exact step_of_port hp

theorem step_write {off : Off} {v : Word} {rest : List PortEvent} (hp : s.port = .write off v :: rest)
    (ha : aligned off = true) (hcmd : off.toNat ≠ Reg.offsetNat .cmd) :
    step s = .next ((s.setPort rest).writeAt off v) := by
  have hne : off ≠ Reg.cmd.offset := fun e => hcmd (by rw [e, Reg.offset_toNat])
  exact (step_of_port hp).trans ((if_pos ha).trans (if_neg hne))

/-- A write of a register that exists stores as the register does. -/
theorem step_write_reg {off : Off} {v : Word} {rest : List PortEvent} {r : Reg} (hp : s.port = .write off v :: rest)
    (hr : off.toNat = r.offsetNat) (hx : r.present s.cfg = true) (hcmd : r ≠ .cmd) :
    step s = .next ((s.setPort rest).writeReg r v) := by
  have hne : off.toNat ≠ Reg.offsetNat .cmd := by
    intro h
    have hoff : r.offset = Reg.cmd.offset := (eq_offset_of_toNat hr).symm.trans (eq_offset_of_toNat h)
    have hat : Reg.at s.cfg Reg.cmd.offset = some r := hoff ▸ Reg.at_offset hx
    exact hcmd (Option.some.inj (hat.symm.trans (Reg.at_offset rfl)))
  rw [step_write hp (aligned_of_toNat hr) hne, eq_offset_of_toNat hr, (s.setPort rest).writeAt_offset v hx]

/-! ## What a write can change -/

/-- A write stores in ERRS, IBUF, IBUF_LEN and the lux coefficients at most (20_memory.md R45). -/
theorem State.writeReg_frame (s : State) (r : Reg) (v : Word) :
    s.writeReg r v = { s with
      errs := (s.writeReg r v).errs, ibuf := (s.writeReg r v).ibuf, ibufLen := (s.writeReg r v).ibufLen,
      luxKr := (s.writeReg r v).luxKr, luxKc := (s.writeReg r v).luxKc } := by
  cases r with
  | status => simp only [State.writeReg]; split <;> rfl
  | _ => rfl

theorem State.writeAt_frame (s : State) (off : Off) (v : Word) :
    s.writeAt off v = { s with
      errs := (s.writeAt off v).errs, ibuf := (s.writeAt off v).ibuf, ibufLen := (s.writeAt off v).ibufLen,
      luxKr := (s.writeAt off v).luxKr, luxKc := (s.writeAt off v).luxKc } := by
  cases hat : Reg.at s.cfg off with
  | none => rw [State.writeAt, hat]
  | some r =>
    have hw : s.writeAt off v = s.writeReg r v := by rw [State.writeAt, hat]
    rw [hw]
    exact s.writeReg_frame r v

/-- No write sets ERRS. -/
theorem State.writeAt_errs_of_clear (s : State) {off : Off} (v : Word) (h : s.errs = false) :
    (s.writeAt off v).errs = false := by
  cases hat : Reg.at s.cfg off with
  | none => rw [State.writeAt, hat]; exact h
  | some r =>
    rw [State.writeAt, hat]
    cases r with
    | status =>
      simp only [State.writeReg]
      split
      · rfl
      · exact h
    | _ => exact h

/-- The read-only registers, those between the host's own, and the reserved offsets ignore a write (20_memory.md R41). -/
theorem State.writeAt_ignored (s : State) {off : Off} (v : Word) (ha : aligned off = true)
    (h : off.toNat = 0x000 ∨ (0x028 ≤ off.toNat ∧ off.toNat < 0x030) ∨ 0x040 ≤ off.toNat) : s.writeAt off v = s := by
  cases hat : Reg.at s.cfg off with
  | none => rw [State.writeAt, hat]
  | some r =>
    have hr : off.toNat = r.offsetNat := by rw [← (Reg.offset_of_at ha hat).1, r.offset_toNat]
    rw [State.writeAt, hat]
    cases r with
    | cmd | status | ibufLen | ibufW _ | luxKrLo | luxKrHi | luxKcLo | luxKcHi =>
      simp only [Reg.offsetNat] at hr
      omega
    | _ => rfl

/-! ## What a command leaves of the host's registers -/

/-- No command changes the parameters, IBUF, IBUF_LEN, the lux coefficients, the port or what the host has read. -/
theorem exec_frame {i : Instr} (h : exec i s = .next t) :
    t = { s with
      err := t.err, errs := t.errs, crcValid := t.crcValid, crcTOk := t.crcTOk, crcHOk := t.crcHOk, ires := t.ires
      res := t.res, resValid := t.resValid, cal := t.cal } := by
  rcases exec_ends h with ⟨-, rfl⟩ | ⟨-, rfl⟩
  · cases i <;> rfl
  · unfold State.atError
    split
    · cases i <;> rfl
    · rfl

theorem execute_frame {w : Word} (h : execute w s = .next t) :
    t = { s with
      err := t.err, errs := t.errs, crcValid := t.crcValid, crcTOk := t.crcTOk, crcHOk := t.crcHOk, ires := t.ires
      res := t.res, resValid := t.resValid, cal := t.cal } := by
  rcases execute_cases h with ⟨i, -, hi⟩ | ⟨-, rfl⟩
  · exact exec_frame hi
  · rfl

/-- No command but CRC_RH writes the CRC bits. -/
theorem exec_keeps_crc {i : Instr} (hi : i ≠ .crcRh) (h : exec i s = .next t) :
    t.crcValid = s.crcValid ∧ t.crcTOk = s.crcTOk ∧ t.crcHOk = s.crcHOk := by
  rcases exec_ends h with ⟨-, rfl⟩ | ⟨-, rfl⟩
  · cases i with
    | crcRh => exact absurd rfl hi
    | _ => exact ⟨rfl, rfl, rfl⟩
  · unfold State.atError
    split
    · cases i with
      | crcRh => exact absurd rfl hi
      | _ => exact ⟨rfl, rfl, rfl⟩
    · exact ⟨rfl, rfl, rfl⟩

/-- No event at the port changes the parameters. -/
theorem serve_cfg {e : PortEvent} (h : serve e s = .next t) : t.cfg = s.cfg := by
  rcases serve_cases h with ⟨_, -, -, rfl⟩ | ⟨w, -, hx⟩ | ⟨off, v, -, -, -, rfl⟩ | ⟨-, rfl⟩
  · rfl
  · rw [execute_frame hx]
  · rw [s.writeAt_frame]
  · rfl

/-! ## Appended fields -/

theorem extract_append_high {v w start k len : Nat} {x : BitVec v} {y : BitVec w} (h : start = w + k) :
    (x ++ y).extractLsb' start len = x.extractLsb' k len := by
  rw [BitVec.extractLsb'_append_eq_of_le (by omega), h, Nat.add_sub_cancel_left]

theorem getLsbD_append_high {v w n k : Nat} {x : BitVec v} {y : BitVec w} (h : n = w + k) :
    (x ++ y).getLsbD n = x.getLsbD k := by
  rw [BitVec.getLsbD_append, if_neg (by omega), h, Nat.add_sub_cancel_left]

@[simp] theorem getLsbD_append_ofBool {v : Nat} (x : BitVec v) (b : Bool) : (x ++ BitVec.ofBool b).getLsbD 0 = b := by
  rw [BitVec.getLsbD_append, if_pos Nat.one_pos, BitVec.getLsbD_ofBool]
  simp

/-! ## The fields of STATUS -/

/-- STATUS above ERR and its four flags. -/
theorem State.status_extract_above (s : State) (n len : Nat) :
    s.status.extractLsb' (8 + n) len = (0#12 ++ s.calValid ++ 0#8).extractLsb' n len :=
  (extract_append_high (k := 4 + n) (by omega)).trans ((extract_append_high (k := 3 + n) (by omega)).trans
    ((extract_append_high (k := 2 + n) (by omega)).trans ((extract_append_high (k := 1 + n) (by omega)).trans
      (extract_append_high rfl))))

theorem State.status_flags (s : State) :
    s.status.getLsbD 4 = s.errs ∧ s.status.getLsbD 5 = s.crcValid ∧ s.status.getLsbD 6 = s.crcTOk ∧
      s.status.getLsbD 7 = s.crcHOk := by
  have hfield {n k : Nat} (h : n = 4 + k) : s.status.getLsbD n = (0#12 ++ s.calValid ++ 0#8 ++ BitVec.ofBool s.crcHOk ++
      BitVec.ofBool s.crcTOk ++ BitVec.ofBool s.crcValid ++ BitVec.ofBool s.errs).getLsbD k := getLsbD_append_high h
  refine ⟨(hfield (k := 0) rfl).trans ?_, (hfield (k := 1) rfl).trans ?_, (hfield (k := 2) rfl).trans ?_,
    (hfield (k := 3) rfl).trans ?_⟩
  · exact getLsbD_append_ofBool _ _
  · rw [getLsbD_append_high (k := 0) rfl, getLsbD_append_ofBool]
  · rw [getLsbD_append_high (k := 1) rfl, getLsbD_append_high (k := 0) rfl, getLsbD_append_ofBool]
  · rw [getLsbD_append_high (k := 2) rfl, getLsbD_append_high (k := 1) rfl, getLsbD_append_high (k := 0) rfl,
      getLsbD_append_ofBool]

theorem State.calValid_getLsbD (s : State) (k : Fin 4) : s.calValid.getLsbD k.val = s.calValidBit k := by
  match k with
  | 0 => exact getLsbD_append_ofBool _ _
  | 1 => exact (getLsbD_append_high (k := 0) rfl).trans (getLsbD_append_ofBool _ _)
  | 2 =>
    exact (getLsbD_append_high (k := 1) rfl).trans
      ((getLsbD_append_high (k := 0) rfl).trans (getLsbD_append_ofBool _ _))
  | 3 =>
    exact (getLsbD_append_high (k := 2) rfl).trans ((getLsbD_append_high (k := 1) rfl).trans
      ((getLsbD_append_high (k := 0) rfl).trans (by cases s.calValidBit 3 <;> rfl)))

theorem State.status_calValid (s : State) : s.status.extractLsb' 16 4 = s.calValid :=
  (s.status_extract_above 8 4).trans ((extract_append_high (k := 0) rfl).trans BitVec.extractLsb'_append_eq_right)

theorem State.status_calValid_getLsbD (s : State) (k : Fin 4) : s.status.getLsbD (16 + k.val) = s.calValidBit k := by
  rw [← s.calValid_getLsbD, ← s.status_calValid]
  simp

theorem State.status_reserved (s : State) : s.status.extractLsb' 8 8 = 0#8 ∧ s.status.extractLsb' 20 12 = 0#12 :=
  ⟨(s.status_extract_above 0 8).trans BitVec.extractLsb'_append_eq_right,
    (s.status_extract_above 12 12).trans ((extract_append_high (k := 4) rfl).trans BitVec.extractLsb'_append_eq_left)⟩

theorem ErrCode.code_toNat (e : ErrCode) :
    e.code.toNat = (match e with
      | .ok => 0
      | .incompleteCal => 1
      | .incompleteSample => 2
      | .notCalibrated => 3
      | .calLocked => 4
      | .illegalCmd => 5
      | .badCoeff => 6) := by
  cases e <;> rfl

/-! ## The halves of a 64-bit register -/

@[simp] theorem high_append_low (d : DWord) : highHalf d ++ lowHalf d = d :=
  BitVec.extractLsb'_append_extractLsb' (w := 32) (len := 32)

@[simp] theorem highHalf_append (a b : Word) : highHalf (a ++ b) = a := BitVec.extractLsb'_append_eq_left

@[simp] theorem lowHalf_append (a b : Word) : lowHalf (a ++ b) = b := BitVec.extractLsb'_append_eq_right

/-! ## The four halves of the lux coefficients -/

theorem State.writeAt_krLo (s : State) (v : Word) :
    s.writeAt 0x030#12 v = s.setLuxKr (withLow s.luxKr v) := s.writeAt_offset (r := .luxKrLo) v rfl

theorem State.readAt_krLo (s : State) : s.readAt 0x030#12 = lowHalf s.luxKr := s.readAt_offset (r := .luxKrLo) rfl

theorem State.writeAt_krHi (s : State) (v : Word) :
    s.writeAt 0x034#12 v = s.setLuxKr (withHigh s.luxKr v) := s.writeAt_offset (r := .luxKrHi) v rfl

theorem State.readAt_krHi (s : State) : s.readAt 0x034#12 = highHalf s.luxKr := s.readAt_offset (r := .luxKrHi) rfl

theorem State.writeAt_kcLo (s : State) (v : Word) :
    s.writeAt 0x038#12 v = s.setLuxKc (withLow s.luxKc v) := s.writeAt_offset (r := .luxKcLo) v rfl

theorem State.readAt_kcLo (s : State) : s.readAt 0x038#12 = lowHalf s.luxKc := s.readAt_offset (r := .luxKcLo) rfl

theorem State.writeAt_kcHi (s : State) (v : Word) :
    s.writeAt 0x03C#12 v = s.setLuxKc (withHigh s.luxKc v) := s.writeAt_offset (r := .luxKcHi) v rfl

theorem State.readAt_kcHi (s : State) : s.readAt 0x03C#12 = highHalf s.luxKc := s.readAt_offset (r := .luxKcHi) rfl

/-! ## Words of IBUF -/

/-- Byte j of IBUF_Wk is bits [8j+7:8j] of what it reads (20_memory.md R43). -/
theorem State.ibufWord_byte (s : State) (k : Fin 6) (j : Fin 4) :
    (s.ibufWord k).extractLsb' (8 * j.val) 8 = s.ibuf[byteIndex k j] := by
  match j with
  | 0 => exact BitVec.extractLsb'_append_eq_right
  | 1 => exact (extract_append_high (k := 0) rfl).trans BitVec.extractLsb'_append_eq_right
  | 2 =>
    exact (extract_append_high (k := 8) rfl).trans
      ((extract_append_high (k := 0) rfl).trans BitVec.extractLsb'_append_eq_right)
  | 3 =>
    exact (extract_append_high (k := 16) rfl).trans
      ((extract_append_high (k := 8) rfl).trans BitVec.extractLsb'_append_eq_left)

/-- A byte of the word that LDBUF writes at IBUF_Wk is the list's byte there, 0 beyond its end (30_encoding.md R79). -/
theorem ldbufWord_byte (bs : List Byte) (i : Nat) :
    (ldbufWord bs (i / 4)).extractLsb' (8 * (i % 4)) 8 = padded bs i := by
  have hpadded : padded bs i = padded bs (4 * (i / 4) + i % 4) := by rw [Nat.div_add_mod]
  rw [hpadded]
  match i % 4, Nat.mod_lt i (show 4 > 0 by norm_num) with
  | 0, _ => exact BitVec.extractLsb'_append_eq_right
  | 1, _ => exact (extract_append_high (k := 0) rfl).trans BitVec.extractLsb'_append_eq_right
  | 2, _ =>
    exact (extract_append_high (k := 8) rfl).trans
      ((extract_append_high (k := 0) rfl).trans BitVec.extractLsb'_append_eq_right)
  | 3, _ =>
    exact (extract_append_high (k := 16) rfl).trans
      ((extract_append_high (k := 8) rfl).trans BitVec.extractLsb'_append_eq_left)

/-! ## LDBUF -/

/-- `s` after writes of the words `ks` of IBUF, each the word that LDBUF writes there. -/
def State.storeWords (bs : List Byte) (s : State) (ks : List (Fin 6)) : State :=
  ks.foldl (fun s k => s.setIbufWord k (ldbufWord bs k.val)) s

/-- The words LDBUF writes. -/
def ldbufWords (bs : List Byte) : List (Fin 6) := (List.finRange 6).filter fun k => 4 * k.val < bs.length

theorem ldbufAccesses_eq (bs : List Byte) :
    ldbufAccesses bs = (ldbufWords bs).map (fun k => writeTo (.ibufW k) (ldbufWord bs k.val)) ++
      [writeTo .ibufLen (BitVec.ofNat 32 bs.length)] := rfl

theorem State.storeWords_frame (bs : List Byte) (ks : List (Fin 6)) (s : State) :
    s.storeWords bs ks = { s with ibuf := (s.storeWords bs ks).ibuf } := by
  induction ks generalizing s with
  | nil => rfl
  | cons k ks ih => exact ih (s.setIbufWord k (ldbufWord bs k.val))

/-- A byte of a word that has been written is the list's; the others are as they were. -/
theorem State.storeWords_byte (bs : List Byte) (i : Fin 24) (ks : List (Fin 6)) (s : State) :
    (s.storeWords bs ks).ibuf[i] = if (⟨i.val / 4, by omega⟩ : Fin 6) ∈ ks then padded bs i.val else s.ibuf[i] := by
  induction ks generalizing s with
  | nil => rfl
  | cons k ks ih =>
    have hstep : (s.setIbufWord k (ldbufWord bs k.val)).ibuf[i] =
        if (⟨i.val / 4, by omega⟩ : Fin 6) = k then padded bs i.val else s.ibuf[i] := by
      rw [s.setIbufWord_byte]
      by_cases hk : i.val / 4 = k.val
      · rw [if_pos hk, if_pos (Fin.ext hk), ← hk, ldbufWord_byte]
      · rw [if_neg hk, if_neg fun e => hk (congrArg Fin.val e)]
    refine (ih (s.setIbufWord k (ldbufWord bs k.val))).trans ?_
    rw [hstep]
    by_cases hks : (⟨i.val / 4, by omega⟩ : Fin 6) ∈ ks
    · rw [if_pos hks, if_pos (List.mem_cons_of_mem k hks)]
    · simp only [List.mem_cons, hks, or_false, if_false]

theorem mem_ldbufWords (bs : List Byte) (i : Fin 24) :
    (⟨i.val / 4, by omega⟩ : Fin 6) ∈ ldbufWords bs ↔ i.val < 4 * ((bs.length + 3) / 4) := by
  simp only [ldbufWords, List.mem_filter, List.mem_finRange, true_and, decide_eq_true_eq]
  omega

theorem run_succ (n : Nat) (h : step s = .next t) : Host.Core.run Sys2Proof.core (n + 1) s = Host.Core.run Sys2Proof.core n t := by
  have hcore : Sys2Proof.core.step s = .next t := h
  simp only [Host.Core.run, hcore]

/-- A run over writes of words of IBUF stores them one by one. -/
theorem run_storeWords (bs : List Byte) (rest : List PortEvent) (n : Nat) (ks : List (Fin 6)) (s : State) :
    Host.Core.run Sys2Proof.core (ks.length + n)
        (s.setPort (ks.map (fun k => writeTo (.ibufW k) (ldbufWord bs k.val)) ++ rest)) =
      Host.Core.run Sys2Proof.core n ((s.storeWords bs ks).setPort rest) := by
  induction ks generalizing s with
  | nil => rw [List.length_nil, Nat.zero_add]; rfl
  | cons k ks ih =>
    have hstep := step_write_reg (s := s.setPort ((k :: ks).map (fun k => writeTo (.ibufW k) (ldbufWord bs k.val)) ++ rest))
      (r := .ibufW k) rfl (Reg.offset_toNat _) rfl (by simp)
    rw [List.length_cons, Nat.add_right_comm, run_succ _ hstep]
    exact ih (s.setIbufWord k (ldbufWord bs k.val))

/-! ## The obligations -/

/-- Settles O10: a reset event is served by the platform reset. -/
theorem resetPulseResetsTheBlock : Obligations.ResetPulseResetsTheBlock := by
  unfold Obligations.ResetPulseResetsTheBlock
  exact fun s rest hp => step_of_port hp

/-- Settles O14: no event at the port changes them. -/
theorem everyStepKeepsTheParameters : Obligations.EveryStepKeepsTheParameters := by
  unfold Obligations.EveryStepKeepsTheParameters
  intro s t h
  rcases step_cases h with ⟨-, rfl⟩ | ⟨e, rest, -, hs⟩
  · rfl
  · exact serve_cfg (s := s.setPort rest) hs

/-- Settles O15: each offset of the map is a register's, which the read returns, and the others are reserved. -/
theorem hostReadReturnsTheMappedValue : Obligations.HostReadReturnsTheMappedValue := by
  unfold Obligations.HostReadReturnsTheMappedValue
  intro s off rest hp returns
  have hreg (r : Reg) (hx : r.present s.cfg = true) (hr : off.toNat = r.offsetNat) : returns (s.readReg r) :=
    step_read_reg hp hr hx
  refine ⟨step_read_misaligned hp, hreg .id rfl, hreg .cmd rfl, hreg .status rfl, ?_, fun k hk => ?_, hreg .ires rfl,
    ?_, hreg .luxKrLo rfl, hreg .luxKrHi rfl, hreg .luxKcLo rfl, hreg .luxKcHi rfl,
    fun k => hreg (.resLo k) rfl, fun k => hreg (.resHi k) rfl, fun c k hc => ?_, fun c k hk h => ?_, fun ha h => ?_⟩
  · rw [BitVec.ofNat_toNat]; exact hreg .ibufLen rfl
  · exact ⟨s.ibufWord k, hreg (.ibufW k) rfl hk, fun j => congrArg BitVec.toNat (s.ibufWord_byte k j)⟩
  · rw [BitVec.ofNat_toNat]; exact hreg .resValid rfl
  · have hback : s.readReg (.cal c k) =
        if k = 0 ∨ k = 3 then ((s.cal[c]).coef[k]).zeroExtend 32 else ((s.cal[c]).coef[k]).signExtend 32 := by
      simp only [State.readReg, CalSlot.readback, coefUnsigned_iff]
    rw [← hback]
    exact hreg (.cal c k) (slotExists_iff.2 hc)
  · exact step_read_reserved hp ((aligned_iff off).2 (by omega)) (Reg.at_absent_cal hk h)
  · exact step_read_reserved hp ((aligned_iff off).2 ha) (Reg.at_outside ((aligned_iff off).2 ha) h)

/-- Settles O16: each offset that takes a write is a register's, and the others ignore it. -/
theorem hostWriteFollowsTheWriteRule : Obligations.HostWriteFollowsTheWriteRule := by
  unfold Obligations.HostWriteFollowsTheWriteRule
  intro s off v rest hp
  have hreg (r : Reg) (hx : r.present s.cfg = true) (hcmd : r ≠ .cmd) (hr : off.toNat = r.offsetNat) :
      step s = .next ((s.setPort rest).writeReg r v) := step_write_reg hp hr hx hcmd
  refine ⟨step_write_misaligned hp, step_write_cmd hp, fun h => ?_, fun h => ?_, fun k hk => ?_,
    hreg .luxKrLo rfl (by decide), hreg .luxKrHi rfl (by decide), hreg .luxKcLo rfl (by decide),
    hreg .luxKcHi rfl (by decide), fun ha h => ?_⟩
  · rw [hreg .status rfl (by decide) h, State.writeReg]
    cases v.getLsbD 4 <;> rfl
  · rw [hreg .ibufLen rfl (by decide) h]
    have hlen : BitVec.ofNat 6 v.toNat = v.extractLsb' 0 6 := by
      rw [BitVec.ofNat_toNat, BitVec.setWidth_eq_extractLsb' (by decide)]
    rw [hlen]
    rfl
  · exact ⟨((s.setPort rest).setIbufWord k v).ibuf, hreg (.ibufW k) rfl (by simp) hk,
      fun i => (s.setPort rest).setIbufWord_byte k v i⟩
  · rw [step_write hp ((aligned_iff off).2 ha) (by simp only [Reg.offsetNat]; omega),
      State.writeAt_ignored _ v ((aligned_iff off).2 ha) h]
    rfl

/-- Settles O17: a read stores nothing of the block, and a write of another register than CMD only its own. -/
theorem onlyCmdWritesRunCommands : Obligations.OnlyCmdWritesRunCommands := by
  unfold Obligations.OnlyCmdWritesRunCommands
  intro s t e rest hp hreset hcmd h
  rcases serve_cases ((step_of_port hp).symm.trans h) with ⟨_, -, -, rfl⟩ | ⟨w, he, -⟩ | ⟨off, v, -, -, -, rfl⟩ | ⟨he, -⟩
  · exact ⟨rfl, id, rfl, rfl, rfl, rfl, rfl, rfl, rfl, rfl⟩
  · exact absurd he (hcmd w)
  · have hclear : s.errs = false → ((s.setPort rest).writeAt off v).errs = false :=
      (s.setPort rest).writeAt_errs_of_clear v
    rw [(s.setPort rest).writeAt_frame off v]
    exact ⟨rfl, hclear, rfl, rfl, rfl, rfl, rfl, rfl, rfl, rfl⟩
  · exact absurd he hreset

/-- Settles O20: each write replaces one half, and the halves of a pattern are the whole of it. -/
theorem luxCoefficientHalvesAreIndependent : Obligations.LuxCoefficientHalvesAreIndependent := by
  unfold Obligations.LuxCoefficientHalvesAreIndependent
  intro s p lo hi kr kc
  have hp : hi ++ lo = p := high_append_low p
  refine ⟨?_, ?_, ?_, ?_, ?_, ?_, ?_, ?_, ?_, ?_, ?_, ?_⟩
  all_goals simp only [State.writeAt_krLo, State.writeAt_krHi, State.writeAt_kcLo, State.writeAt_kcHi, State.readAt_krLo,
    State.readAt_krHi, State.readAt_kcLo, State.readAt_kcHi, withLow, withHigh, State.setLuxKr_luxKr, State.setLuxKc_luxKc,
    lowHalf_append, highHalf_append, hp]
  all_goals rfl

/-- Settles O21: the words' writes fill IBUF up to the next word boundary, and the last access is the length's. -/
theorem ldbufLoadsTheBytes : Obligations.LdbufLoadsTheBytes := by
  unfold Obligations.LdbufLoadsTheBytes
  intro s bs rest hlen
  refine ⟨(s.storeWords bs (ldbufWords bs)).ibuf, ?_, fun i => ?_⟩
  · have hstep := step_write_reg
      (s := (s.storeWords bs (ldbufWords bs)).setPort (writeTo .ibufLen (BitVec.ofNat 32 bs.length) :: rest))
      (r := .ibufLen) rfl (Reg.offset_toNat _) rfl (by simp)
    have hbits : (BitVec.ofNat 32 bs.length).extractLsb' 0 6 = BitVec.ofNat 6 bs.length := by
      rw [← BitVec.setWidth_eq_extractLsb' (by decide), BitVec.setWidth_ofNat_of_le (by decide)]
    have hrun := run_storeWords bs (writeTo .ibufLen (BitVec.ofNat 32 bs.length) :: rest) 1 (ldbufWords bs) s
    rw [run_succ 0 hstep, State.storeWords_frame] at hrun
    have hcount : (ldbufAccesses bs).length = (ldbufWords bs).length + 1 := by simp [ldbufAccesses_eq]
    have hport : ldbufAccesses bs ++ rest = (ldbufWords bs).map (fun k => writeTo (.ibufW k) (ldbufWord bs k.val)) ++
        (writeTo .ibufLen (BitVec.ofNat 32 bs.length) :: rest) := by simp [ldbufAccesses_eq]
    rw [hcount, hport, ← hbits]
    exact hrun
  · rw [s.storeWords_byte, if_congr (mem_ldbufWords bs i) rfl rfl]
    rfl

/-- Settles O19: the fields lie one after the other, a host write reaches ERRS alone, and only CRC_RH stores CRC bits. -/
theorem statusHoldsItsFields : Obligations.StatusHoldsItsFields := by
  unfold Obligations.StatusHoldsItsFields
  refine ⟨fun s => ?_, fun s v => ?_, fun s t i hi h => exec_keeps_crc hi h, by decide⟩
  · obtain ⟨herrs, hvalid, htOk, hhOk⟩ := s.status_flags
    obtain ⟨hlow, hhigh⟩ := s.status_reserved
    have hcode : s.status.extractLsb' 0 4 = s.err.code := BitVec.extractLsb'_append_eq_right
    exact ⟨(congrArg BitVec.toNat hcode).trans s.err.code_toNat, herrs, hvalid, htOk, hhOk, hlow,
      s.status_calValid_getLsbD, hhigh⟩
  · have hwrite : s.writeAt 0x008#12 v = s.writeReg .status v := s.writeAt_offset (r := .status) v rfl
    rw [hwrite, State.writeReg]
    cases v.getLsbD 4 <;> rfl

end Sys2Proof.Machine
end

section
/-! The invariants of the block: each clause of `State.Inv` and the finiteness of the results, at reset and through every event at
the port (10_state.md, sections 3 to 8; 42_comp_pressure.md R126; 43_comp_humidity_light.md R142, R152, R153, R155). -/

namespace Sys2Proof.Machine

open F64

variable {s t : State} {i : Instr}

/-! ## What the invariant does not read -/

/-- The invariant reads neither ERR and ERRS, nor the registers a host writes, nor the model's own lists. -/
theorem State.Inv.of_frame (h : s.Inv)
    (ht : t = { s with
      err := t.err, errs := t.errs, ibuf := t.ibuf, ibufLen := t.ibufLen, luxKr := t.luxKr, luxKc := t.luxKc
      port := t.port, observed := t.observed }) : t.Inv := by
  rw [ht]
  exact ⟨h.resValid, h.zeroed, h.absent, h.crc, h.ires, h.lux, h.counts⟩

/-! ## A command that raises -/

theorem State.Inv.clearResults (h : s.Inv) : (s.setResValid 0#9).Inv :=
  ⟨.inl rfl, h.zeroed, h.absent, h.crc, h.ires, h.lux, h.counts⟩

theorem State.Inv.clearCrc (h : s.Inv) : (s.setCrc false false false).Inv :=
  ⟨h.resValid, h.zeroed, h.absent, fun _ => ⟨rfl, rfl⟩, h.ires, h.lux, h.counts⟩

theorem State.Inv.atError (h : s.Inv) (i : Instr) : (s.atError i).Inv := by
  unfold State.atError
  split
  next =>
    cases i with
    | compPt _ | compRh | compLux => exact h.clearResults
    | crcRh => exact h.clearCrc
    | _ => exact h
  next => exact h

/-! ## A command that completes, clause by clause -/

theorem State.completed_resValidLegal (h : s.ResValidLegal) (i : Instr) : (s.completed i).ResValidLegal := by
  cases i with
  | compPt _ => exact .inr (.inl rfl)
  | compRh => exact .inr (.inr (.inl rfl))
  | compLux => exact .inr (.inr (.inr rfl))
  | _ => exact h

/-- The slots of a completed command: as they were, or one of those that exist replaced by a valid or an empty one. -/
theorem State.completed_cal_cases (s : State) (hw : i.wf s.cfg = true) :
    (s.completed i).cal = s.cal ∨
      ∃ slot c, slotExists s.cfg slot = true ∧ (c.valid = false → c = CalSlot.empty) ∧
        (s.completed i).cal = s.cal.set slot c := by
  cases i with
  | calLoad slot => exact .inr ⟨slot, _, hw, (fun hv => by cases hv), rfl⟩
  | calRelease slot => exact .inr ⟨slot, _, hw, fun _ => rfl, rfl⟩
  | _ => exact .inl rfl

theorem State.SlotsZeroed.set (h : s.SlotsZeroed) {slot : Fin 4} {c : CalSlot} (hc : c.valid = false → c = CalSlot.empty) :
    (s.setCal slot c).SlotsZeroed := by
  intro k hv
  by_cases hk : slot = k
  · subst hk
    rw [setCal_same] at hv ⊢
    exact hc hv
  · rw [setCal_other s hk] at hv ⊢
    exact h k hv

theorem State.AbsentEmpty.set (h : s.AbsentEmpty) {slot : Fin 4} (hx : slotExists s.cfg slot = true) (c : CalSlot) :
    (s.setCal slot c).AbsentEmpty := by
  intro k hk
  have hlt := slotExists_iff.1 hx
  have hne : slot ≠ k := by rintro rfl; exact absurd hlt (not_lt.2 hk)
  rw [setCal_other s hne]
  exact h k hk

theorem State.completed_slotsZeroed (h : s.SlotsZeroed) (hw : i.wf s.cfg = true) : (s.completed i).SlotsZeroed := by
  rcases s.completed_cal_cases hw with hc | ⟨slot, c, -, hzero, hc⟩ <;> rw [State.SlotsZeroed, hc]
  · exact h
  · exact h.set hzero

/-- No completion changes the parameters. -/
theorem State.completed_cfg (s : State) (i : Instr) : (s.completed i).cfg = s.cfg := by cases i <;> rfl

theorem State.completed_absentEmpty (h : s.AbsentEmpty) (hw : i.wf s.cfg = true) : (s.completed i).AbsentEmpty := by
  rcases s.completed_cal_cases hw with hc | ⟨slot, c, hx, -, hc⟩ <;> rw [State.AbsentEmpty, hc, s.completed_cfg]
  · exact h
  · exact h.set hx c

theorem State.completed_crcCoherent (h : s.CrcCoherent) (i : Instr) : (s.completed i).CrcCoherent := by
  cases i with
  | crcRh => intro hv; cases hv
  | _ => exact h

/-- A zero-extended pattern of at most 20 bits. -/
theorem iresLegal_zeroExtend {n : Nat} (v : BitVec n) (hn : n ≤ 20) : (s.setIres (v.zeroExtend 32)).IresLegal := by
  refine .inl ?_
  have hval : (v.zeroExtend 32).toNat = v.toNat := BitVec.toNat_setWidth_of_le (by omega)
  rw [State.setIres_ires, hval]
  exact v.isLt.trans_le (Nat.pow_le_pow_right Nat.two_pos hn)

/-- A sign-extended 16-bit pattern. -/
theorem iresLegal_toS16 (v : Half) : (s.setIres (BitVec.ofInt 32 (toSigned16 v))).IresLegal := by
  have hlo := v.le_toInt
  have hhi := v.toInt_lt
  have hval := toInt_ofInt_toSigned16 v
  rw [toSigned16_eq_toInt, BitVec.toInt_eq_toNat_cond] at hval
  rw [State.IresLegal, State.setIres_ires, toSigned16_eq_toInt]
  split at hval <;> omega

theorem State.completed_iresLegal (h : s.IresLegal) (i : Instr) : (s.completed i).IresLegal := by
  cases i with
  | decBe16 _ | decLe16 _ => exact iresLegal_zeroExtend _ (by norm_num)
  | dec20 _ => exact iresLegal_zeroExtend _ le_rfl
  | toS16 => exact iresLegal_toS16 _
  | _ => exact h

/-- COMP_LUX completes only where its estimate is finite (43_comp_humidity_light.md R153). -/
theorem luxEstimate_finite_of_ok (h : errorOf s .compLux = .ok) : s.luxEstimate.finite = true := by
  obtain ⟨⟨-, -, hx⟩, -⟩ := exec_compLux_ok (exec_completes h) rfl
  exact hx

theorem State.completed_luxNonneg (h : s.LuxNonneg) (hok : errorOf s i = .ok) : (s.completed i).LuxNonneg := by
  cases i with
  | compPt slot =>
    have hkept := State.writePt_other (s.setResValid 0#9) (temperature ((s.cal[slot]).tFine (s.dec20At 0)))
      ((s.cal[slot]).pressure s.cfg.sqGroup (s.dec20At 0) (s.dec20At 3)) ((s.cal[slot]).tFine (s.dec20At 0)) 3 (by decide)
    exact (congrArg BitVec.msb hkept).trans h
  | compRh =>
    have hkept := State.writeRh_other (s.setResValid 0#9) (rhTemperature (s.be16At 0)) (rhHumidity (s.be16At 3)) 3 (by decide)
    exact (congrArg BitVec.msb hkept).trans h
  | compLux => exact (congrArg BitVec.msb s.afterCompLux_lux).trans (msb_luxClamp (luxEstimate_finite_of_ok hok))
  | _ => exact h

/-- The register of a raw count (43_comp_humidity_light.md R150). -/
def countIndex (j : Fin 4) : Fin 9 := ⟨4 + j.val, by omega⟩

theorem eq_countIndex {k : Fin 9} (h4 : 4 ≤ k.val) (h7 : k.val ≤ 7) : ∃ j, k = countIndex j :=
  ⟨⟨k.val - 4, by omega⟩, Fin.ext (Nat.add_sub_cancel' h4).symm⟩

theorem State.completed_countsWhole (h : s.CountsWhole) (i : Instr) : (s.completed i).CountsWhole := by
  intro k h4 h7
  cases i with
  | compPt _ =>
    obtain ⟨n, hn⟩ := h k h4 h7
    exact ⟨n, (State.writePt_other _ _ _ _ k (by omega)).trans hn⟩
  | compRh =>
    obtain ⟨n, hn⟩ := h k h4 h7
    exact ⟨n, (State.writeRh_other _ _ _ k (by omega)).trans hn⟩
  | compLux =>
    obtain ⟨j, rfl⟩ := eq_countIndex h4 h7
    exact ⟨_, s.afterCompLux_count j⟩
  | _ => exact h k h4 h7

theorem State.Inv.completed (h : s.Inv) (hok : errorOf s i = .ok) : (s.completed i).Inv :=
  have hw := wf_of_errorOf_ok hok
  ⟨State.completed_resValidLegal h.resValid i, State.completed_slotsZeroed h.zeroed hw,
    State.completed_absentEmpty h.absent hw, State.completed_crcCoherent h.crc i, State.completed_iresLegal h.ires i,
    State.completed_luxNonneg h.lux hok, State.completed_countsWhole h.counts i⟩

/-! ## Reset -/

theorem State.reset_cal (k : Fin 4) : State.reset.cal[k] = CalSlot.empty := by simp [State.reset]

theorem State.reset_res (k : Fin 9) : State.reset.res[k] = 0#64 := by simp [State.reset]

theorem toBits_zero_count : (0#64 : DWord) = (i2f (0#16 : Half).toNat).toBits := by decide +kernel

/-- The reset state, under any parameters. -/
theorem State.Inv.platformReset (s : State) : s.platformReset.Inv where
  resValid := .inl rfl
  zeroed := fun k _ => State.reset_cal k
  absent := fun k _ => State.reset_cal k
  crc := fun _ => ⟨rfl, rfl⟩
  ires := .inl (show (0#32 : Word).toNat < 2 ^ 20 by decide)
  lux := congrArg BitVec.msb (State.reset_res 3)
  counts := fun k _ _ => ⟨0#16, (State.reset_res k).trans toBits_zero_count⟩

theorem State.ResultsFinite.platformReset (s : State) : s.platformReset.ResultsFinite := by
  intro k
  have hzero : s.platformReset.res[k] = 0#64 := State.reset_res k
  rw [hzero]
  decide +kernel

/-! ## The results a command stores are finite -/

/-- A register that holds the encoding of a finite value that binary64 holds. -/
theorem finite_of_eq_toBits {d : DWord} {x : F64} (hd : d = x.toBits) (hx : x.finite = true) (h : Holdable x) :
    (ofBits d).finite = true := by
  rw [hd, ofBits_toBits hx h]; exact hx

theorem CalSlot.holdable_pressure (c : CalSlot) (g : SqGroup) (adcT adcP : BitVec 20) : Holdable (c.pressure g adcT adcP) := by
  unfold CalSlot.pressure Machine.pressure
  simp only
  split
  · exact holdable_lit (by norm_num)
  · exact holdable_fdiv _ _

theorem State.ResultsFinite.writePt (h : s.ResultsFinite) (c : CalSlot) (g : SqGroup) (adcT adcP : BitVec 20) :
    (s.writePt (temperature (c.tFine adcT)) (c.pressure g adcT adcP) (c.tFine adcT)).ResultsFinite := by
  have htf := c.tFine_atMostPow_tight adcT
  intro k
  by_cases hk : 2 ≤ k.val ∧ k.val ≤ 7
  · rw [State.writePt_other _ _ _ _ k hk]; exact h k
  · obtain rfl | rfl | rfl : k = 0 ∨ k = 1 ∨ k = 8 := by omega
    · exact finite_of_eq_toBits (State.writePt_temp _ _ _ _) (temperature_finite htf) (holdable_fdiv _ _)
    · exact finite_of_eq_toBits (State.writePt_pres _ _ _ _) (c.pressure_finite g adcT adcP) (c.holdable_pressure g adcT adcP)
    · exact finite_of_eq_toBits (State.writePt_tfine _ _ _ _) htf.finite (holdable_fadd _ _)

theorem State.ResultsFinite.writeRh (h : s.ResultsFinite) (temp hum : Half) :
    (s.writeRh (rhTemperature temp) (rhHumidity hum)).ResultsFinite := by
  intro k
  by_cases hk : k ≠ 0 ∧ k ≠ 2
  · rw [State.writeRh_other _ _ _ k hk]; exact h k
  · obtain rfl | rfl : k = 0 ∨ k = 2 := by omega
    · exact finite_of_eq_toBits (State.writeRh_temp _ _ _) (rhTemperature_finite temp) (holdable_fadd _ _)
    · refine finite_of_eq_toBits (State.writeRh_hum _ _ _) (rhHumidity_finite hum) ?_
      rw [rhHumidity_eq_rhRatio]
      exact holdable_fdiv _ _

theorem State.ResultsFinite.afterCompLux (h : s.ResultsFinite) (hx : s.luxEstimate.finite = true) :
    s.afterCompLux.ResultsFinite := by
  intro k
  by_cases hk : k.val < 3 ∨ k.val = 8
  · exact (congrArg (fun d => (ofBits d).finite) (State.writeLux_other _ _ _ _ _ _ k hk)).trans (h k)
  · obtain rfl | ⟨h4, h7⟩ : k = 3 ∨ 4 ≤ k.val ∧ k.val ≤ 7 := by omega
    · exact finite_of_eq_toBits s.afterCompLux_lux (luxClamp_finite hx) (holdable_luxClamp (holdable_fadd _ _))
    · obtain ⟨j, rfl⟩ := eq_countIndex h4 h7
      have hcount := ofBits_toBits_count (s.le16At (2 * j.val))
      exact (congrArg finite ((congrArg ofBits (s.afterCompLux_count j)).trans hcount)).trans (by rw [count_eq]; rfl)

theorem State.ResultsFinite.completed (h : s.ResultsFinite) (hok : errorOf s i = .ok) : (s.completed i).ResultsFinite := by
  cases i with
  | compPt slot => exact State.ResultsFinite.writePt (s := s.setResValid 0#9) h _ _ _ _
  | compRh => exact State.ResultsFinite.writeRh (s := s.setResValid 0#9) h _ _
  | compLux => exact State.ResultsFinite.afterCompLux h (luxEstimate_finite_of_ok hok)
  | _ => exact h

/-- An error stores in no result. -/
theorem State.atError_res (s : State) (i : Instr) : (s.atError i).res = s.res := by
  unfold State.atError
  split
  · cases i <;> rfl
  · rfl

theorem State.ResultsFinite.of_res (h : s.ResultsFinite) (ht : t.res = s.res) : t.ResultsFinite := by
  intro k; rw [ht]; exact h k

/-! ## One event at the port -/

theorem exec_keeps_inv (h : s.Inv) (hx : exec i s = .next t) : t.Inv := by
  rcases exec_ends hx with ⟨hok, rfl⟩ | ⟨-, rfl⟩
  · exact (h.completed hok).of_frame rfl
  · exact (h.atError i).of_frame rfl

theorem execute_keeps_inv {w : Word} (h : s.Inv) (hx : execute w s = .next t) : t.Inv := by
  rcases execute_cases hx with ⟨i, -, hi⟩ | ⟨-, rfl⟩
  · exact exec_keeps_inv h hi
  · exact h.of_frame rfl

theorem serve_keeps_inv {e : PortEvent} (h : s.Inv) (hs : serve e s = .next t) : t.Inv := by
  rcases serve_cases hs with ⟨_, -, -, rfl⟩ | ⟨w, -, hx⟩ | ⟨off, v, -, -, -, rfl⟩ | ⟨-, rfl⟩
  · exact h.of_frame rfl
  · exact execute_keeps_inv h hx
  · rw [s.writeAt_frame]
    exact h.of_frame rfl
  · exact .platformReset s

theorem exec_keeps_finite (h : s.ResultsFinite) (hx : exec i s = .next t) : t.ResultsFinite := by
  rcases exec_ends hx with ⟨hok, rfl⟩ | ⟨-, rfl⟩
  · exact h.completed hok
  · exact h.of_res (s.atError_res i)

theorem serve_keeps_finite {e : PortEvent} (h : s.ResultsFinite) (hs : serve e s = .next t) : t.ResultsFinite := by
  rcases serve_cases hs with ⟨_, -, -, rfl⟩ | ⟨w, -, hx⟩ | ⟨off, v, -, -, -, rfl⟩ | ⟨-, rfl⟩
  · exact h
  · rcases execute_cases hx with ⟨i, -, hi⟩ | ⟨-, rfl⟩
    · exact exec_keeps_finite h hi
    · exact h
  · rw [s.writeAt_frame]
    exact h
  · exact .platformReset s

/-! ## The obligations -/

/-- Settles O11: the reset state is its own platform reset. -/
theorem invariantHoldsAtReset : Obligations.InvariantHoldsAtReset := by
  unfold Obligations.InvariantHoldsAtReset
  exact ⟨State.Inv.platformReset State.reset, State.ResultsFinite.platformReset State.reset⟩

/-- Settles O12: an error stores in none of the clauses' registers but to clear them, a completion keeps each clause, and a host
write reaches none. -/
theorem everyStepKeepsTheInvariant : Obligations.EveryStepKeepsTheInvariant := by
  unfold Obligations.EveryStepKeepsTheInvariant
  intro s t h hstep
  rcases step_cases hstep with ⟨-, rfl⟩ | ⟨e, rest, -, hs⟩
  · exact h
  · exact serve_keeps_inv (s := s.setPort rest) (h.of_frame rfl) hs

/-- Settles O13: COMP_PT's results are finite by R126's bounds, COMP_RH's by R142's, and COMP_LUX completes on a finite sum. -/
theorem everyStepKeepsResultsFinite : Obligations.EveryStepKeepsResultsFinite := by
  unfold Obligations.EveryStepKeepsResultsFinite
  intro s t h hstep
  rcases step_cases hstep with ⟨-, rfl⟩ | ⟨e, rest, -, hs⟩
  · exact h
  · exact serve_keeps_finite (s := s.setPort rest) h hs

end Sys2Proof.Machine
end

section
/-! Binary64: rounding goes to the nearest magnitude on the grid, ties to even, and a pattern is the encoding of the value it
denotes (00_scope.md R12). -/

namespace Sys2Proof.Machine.F64

/-! ## A pattern from its fields -/

/-- A pattern is its sign, its exponent and its fraction. -/
theorem pattern_eq_fields (b : DWord) :
    BitVec.ofNat 64 (signPart (b.getLsbD 63) + ((b.extractLsb' 52 11).toNat * 2 ^ 52 + (b.extractLsb' 0 52).toNat)) = b := by
  have hsign : (b.getLsbD 63).toNat = b.toNat / 2 ^ 63 := by
    have htop : b.toNat / 2 ^ 63 < 2 := by omega
    rw [BitVec.getLsbD, Nat.testBit_eq_decide_div_mod_eq, Nat.mod_eq_of_lt htop]
    generalize b.toNat / 2 ^ 63 = x at htop
    match x, htop with
    | 0, _ | 1, _ => rfl
  have hexp : (b.extractLsb' 52 11).toNat = b.toNat / 2 ^ 52 % 2 ^ 11 := by
    rw [BitVec.extractLsb'_toNat, Nat.shiftRight_eq_div_pow]
  have hfrac : (b.extractLsb' 0 52).toNat = b.toNat % 2 ^ 52 := by
    rw [BitVec.extractLsb'_toNat, Nat.shiftRight_zero]
  refine BitVec.eq_of_toNat_eq ?_
  rw [BitVec.toNat_ofNat, signPart_eq, hsign, hexp, hfrac]
  omega

theorem toBits_inf (s : Bool) : toBits (.inf s) = BitVec.ofNat 64 (signPart s + 0x7FF0000000000000) := rfl

/-- The magnitude's bits of a pattern below the infinities are its exponent and fraction. -/
theorem magBits_fields {e f : Nat} (hf : f < 2 ^ 52) :
    magBits (if e = 0 then f else (2 ^ 52 + f) * 2 ^ (e - 1)) = e * 2 ^ 52 + f := by
  split
  next he => rw [magBits_subnormal hf, he, Nat.zero_mul, Nat.zero_add]
  next he =>
    rw [magBits_normal (e - 1) (by omega) (by omega)]
    omega

/-! ## The two neighbours of an exact magnitude -/

section
variable {num den : Nat}

/-- How far a magnitude `z` lies from `num / den`, in units of 1 / `den`. -/
def distance (num den z : Nat) : Nat := ((z * den : Int) - num).natAbs

theorem distance_of_le {z : Nat} (h : z * den ≤ num) : distance num den z = num - z * den := by
  have hz : ((z * den : Nat) : Int) = z * den := by push_cast; rfl
  rw [distance, ← hz]
  omega

theorem distance_of_ge {z : Nat} (h : num ≤ z * den) : distance num den z = z * den - num := by
  have hz : ((z * den : Nat) : Int) = z * den := by push_cast; rfl
  rw [distance, ← hz]
  omega

/-- `lo` and `hi` are neighbours on the grid around `num / den`, `r` above the one and `step - r` below the other. -/
structure Between (num den lo hi r step : Nat) : Prop where
  below : num = lo * den + r
  above : num + step = hi * den + r
  lt : r < step
  floor : ∀ y, OnGrid y → y * den ≤ num → y ≤ lo
  ceil : ∀ y, OnGrid y → num ≤ y * den → r ≠ 0 → hi ≤ y

theorem between_neighbours (hd : 0 < den) :
    Between num den (num / (den * spacing (num / den)) * spacing (num / den))
      ((num / (den * spacing (num / den)) + 1) * spacing (num / den)) (num % (den * spacing (num / den)))
      (den * spacing (num / den)) where
  below := by
    have h := Nat.div_add_mod num (den * spacing (num / den))
    rw [Nat.mul_right_comm, Nat.mul_assoc, Nat.mul_comm]
    exact h.symm
  above := by
    have h := Nat.div_add_mod num (den * spacing (num / den))
    rw [show (num / (den * spacing (num / den)) + 1) * spacing (num / den) * den =
      den * spacing (num / den) * (num / (den * spacing (num / den))) + den * spacing (num / den) by ring]
    omega
  lt := Nat.mod_lt _ (Nat.mul_pos hd (spacing_pos _))
  floor := fun _ hy h => grid_le_floor hd hy h
  ceil := fun _ hy h hr => ceil_le_grid hy h hr

/-- The lower neighbour, where it is not the farther one: nothing is nearer, and what is as near is the upper one. -/
theorem Between.lo_nearest {lo hi r step y : Nat} (hb : Between num den lo hi r step) (hd : 0 < den) (hnear : 2 * r ≤ step)
    (hy : OnGrid y) : distance num den lo ≤ distance num den y ∧
      (distance num den lo = distance num den y → y ≠ lo → 2 * r = step) := by
  obtain ⟨hbelow, habove, hlt, hfloor, hceil⟩ := hb
  have hlo : distance num den lo = r := by rw [distance_of_le (by omega)]; omega
  rw [hlo]
  rcases Nat.le_total (y * den) num with hle | hge
  · have hylo := Nat.mul_le_mul_right den (hfloor y hy hle)
    rw [distance_of_le hle]
    refine ⟨by omega, fun heq hne => absurd (Nat.eq_of_mul_eq_mul_right hd ?_) hne⟩
    omega
  · rw [distance_of_ge hge]
    by_cases hr : r = 0
    · exact ⟨by omega, fun heq hne => absurd (Nat.eq_of_mul_eq_mul_right hd (by omega)) hne⟩
    · have hyhi := Nat.mul_le_mul_right den (hceil y hy hge hr)
      exact ⟨by omega, fun heq _ => by omega⟩

/-- The upper neighbour, where it is not the farther one. -/
theorem Between.hi_nearest {lo hi r step y : Nat} (hb : Between num den lo hi r step) (hd : 0 < den) (hnear : step ≤ 2 * r)
    (hy : OnGrid y) : distance num den hi ≤ distance num den y ∧
      (distance num den hi = distance num den y → y ≠ hi → 2 * r = step) := by
  obtain ⟨hbelow, habove, hlt, hfloor, hceil⟩ := hb
  have hhi : distance num den hi = step - r := by rw [distance_of_ge (by omega)]; omega
  rw [hhi]
  rcases Nat.le_total (y * den) num with hle | hge
  · have hylo := Nat.mul_le_mul_right den (hfloor y hy hle)
    rw [distance_of_le hle]
    exact ⟨by omega, fun heq _ => by omega⟩
  · have hyhi := Nat.mul_le_mul_right den (hceil y hy hge (by omega))
    rw [distance_of_ge hge]
    exact ⟨by omega, fun heq hne => absurd (Nat.eq_of_mul_eq_mul_right hd (by omega)) hne⟩

end

/-! ## The significand chosen on a tie -/

/-- An even significand of at most 53 bits is the significand that the grid gives its magnitude, or half of it. -/
theorem significand_even {k j : Nat} (hk : k % 2 = 0) (hle : k ≤ 2 ^ 53) (hlo : j = 0 ∨ 2 ^ 52 ≤ k) :
    k * 2 ^ j / spacing (k * 2 ^ j) % 2 = 0 := by
  rcases Nat.eq_or_lt_of_le hle with rfl | hlt
  · have hm : 2 ^ 53 * 2 ^ j = 2 ^ (53 + j) := (pow_add 2 53 j).symm
    have hs : spacing (2 ^ (53 + j)) = 2 ^ (j + 1) := by rw [spacing, Nat.log2_two_pow]; congr 1; omega
    rw [hm, hs, Nat.pow_div (by omega) Nat.two_pos, show 53 + j - (j + 1) = 52 by omega]
  · have hs : spacing (k * 2 ^ j) = 2 ^ j := by
      rcases Nat.lt_or_ge k (2 ^ 52) with hsub | hnorm
      · obtain rfl : j = 0 := hlo.resolve_right (by omega)
        have hlog : Nat.log2 (k * 2 ^ 0) ≤ 52 := by
          rw [pow_zero, Nat.mul_one, Nat.log2_eq_log_two]
          exact Nat.lt_succ_iff.1 (Nat.log_lt_of_lt_pow' (by omega) hlt)
        rw [spacing, Nat.sub_eq_zero_of_le hlog]
      · have hlog : Nat.log2 (k * 2 ^ j) = 52 + j := by
          refine log2_of_bounds ?_ ?_
          · rw [pow_add]; exact Nat.mul_le_mul_right _ hnorm
          · rw [show 52 + j + 1 = 53 + j by omega, pow_add]; exact Nat.mul_lt_mul_of_pos_right hlt (Nat.two_pow_pos j)
        rw [spacing, hlog, Nat.add_sub_cancel_left]
    rw [hs, Nat.mul_div_cancel _ (Nat.two_pow_pos j), hk]

/-- The significand below an exact magnitude has at most 53 bits, and fewer than 53 only on the subnormal grid. -/
theorem significand_bounds (num den : Nat) :
    num / (den * spacing (num / den)) < 2 ^ 53 ∧
      (Nat.log2 (num / den) - 52 = 0 ∨ 2 ^ 52 ≤ num / (den * spacing (num / den))) := by
  rw [← Nat.div_div_eq_div_mul]
  generalize num / den = a
  refine ⟨?_, ?_⟩
  · rw [Nat.div_lt_iff_lt_mul (spacing_pos a), spacing, ← pow_add]
    exact lt_of_lt_of_le Nat.lt_log2_self (Nat.pow_le_pow_right Nat.two_pos (by omega))
  · refine or_iff_not_imp_left.2 fun hj => ?_
    have hpow : 2 ^ 52 * spacing a = 2 ^ Nat.log2 a := by
      rw [spacing, ← pow_add]
      congr 1
      omega
    rw [Nat.le_div_iff_mul_le (spacing_pos a), hpow]
    refine Nat.log2_self_le ?_
    rintro rfl
    exact hj (by decide)

/-- Rounding chooses a grid magnitude that none is nearer than, and on a tie the one with an even significand. -/
theorem roundMag_nearest {num den y : Nat} (hd : 0 < den) (hy : OnGrid y) :
    distance num den (roundMag num den) ≤ distance num den y ∧
      (distance num den (roundMag num den) = distance num den y → y ≠ roundMag num den →
        roundMag num den / spacing (roundMag num den) % 2 = 0) := by
  have hb := between_neighbours (num := num) hd
  obtain ⟨hq, hnorm⟩ := significand_bounds num den
  rw [roundMag_eq rfl rfl]
  split_ifs with hup
  · obtain ⟨hle, htie⟩ := hb.hi_nearest hd (by omega) hy
    refine ⟨hle, fun heq hne => ?_⟩
    have htie := htie heq hne
    exact significand_even (by omega) (by omega) (hnorm.imp_right Nat.le_succ_of_le)
  · obtain ⟨hle, htie⟩ := hb.lo_nearest hd (by omega) hy
    refine ⟨hle, fun heq hne => ?_⟩
    have htie := htie heq hne
    exact significand_even (by omega) hq.le hnorm

/-- Settles O57: the chosen neighbour is the nearer one, and on a tie its significand is even. -/
theorem roundingIsNearestTiesToEven : Obligations.RoundingIsNearestTiesToEven := by
  unfold Obligations.RoundingIsNearestTiesToEven
  exact fun num den _ hd hy => ⟨onGrid_roundMag num den hd, roundMag_nearest hd hy⟩

/-- Settles O58, by the class of the pattern's exponent. -/
theorem encodingOfAValueIsItsPattern : Obligations.EncodingOfAValueIsItsPattern := by
  unfold Obligations.EncodingOfAValueIsItsPattern
  intro b hnan
  have hf : (b.extractLsb' 0 52).toNat < 2 ^ 52 := (b.extractLsb' 0 52).isLt
  have hfields := pattern_eq_fields b
  by_cases he : (b.extractLsb' 52 11).toNat = 2047
  · by_cases hz : (b.extractLsb' 0 52).toNat = 0
    · have hinf : ofBits b = .inf (b.getLsbD 63) := (if_pos he).trans (if_pos hz)
      rw [he, hz, show 2047 * 2 ^ 52 + 0 = 0x7FF0000000000000 by norm_num] at hfields
      rw [hinf, toBits_inf, hfields]
    · exact absurd ((if_pos he).trans (if_neg hz)) hnan
  · have hfin : ofBits b = .fin (b.getLsbD 63) (if (b.extractLsb' 52 11).toNat = 0 then (b.extractLsb' 0 52).toNat
        else (2 ^ 52 + (b.extractLsb' 0 52).toNat) * 2 ^ ((b.extractLsb' 52 11).toNat - 1)) := by
      simp only [ofBits, if_neg he]
      split <;> rfl
    rw [hfin, toBits_fin, magBits_fields hf, hfields]

end Sys2Proof.Machine.F64
end

section
/-! The host's log: what one more event leaves of what the host knows, and when it keeps the duties (20_memory.md R63, R64;
41_calibration.md R114; 60_exceptions.md R173; 70_reset_and_hazards.md R202, R211, R213, R220, R224). -/

namespace Sys2Proof.Machine

/-! ## The fetch under way -/

/-- An event that neither begins a fetch of `inp` nor ends a read of it. -/
structure HostEvent.Quiet (inp : Input) (e : HostEvent) : Prop where
  noFetch : e ≠ .fetch inp
  noRead : e.fetched inp = none

section
variable {inp : Input} {e : HostEvent} {log : List HostEvent}

theorem quiet_busStart (inp : Input) (now : Nat) (call : BusCall) : (HostEvent.busStart now call).Quiet inp := ⟨nofun, rfl⟩

theorem quiet_access (inp : Input) (a : PortEvent) (err : ErrCode) : (HostEvent.access a err).Quiet inp := ⟨nofun, rfl⟩

theorem quiet_reset (inp : Input) : HostEvent.reset.Quiet inp := ⟨nofun, rfl⟩

theorem HostEvent.Quiet.fetchReads_eq (h : e.Quiet inp) : fetchReads inp (e :: log) = fetchReads inp log :=
  fetchReads_of_none log h.noFetch h.noRead

theorem HostEvent.Quiet.bytesReceived_eq (h : e.Quiet inp) : bytesReceived inp (e :: log) = bytesReceived inp log := by
  rw [bytesReceived, bytesReceived, h.fetchReads_eq]

theorem HostEvent.Quiet.wholeFetch_eq (h : e.Quiet inp) : wholeFetch inp (e :: log) = wholeFetch inp log := by
  rw [wholeFetch, wholeFetch, h.fetchReads_eq]

theorem HostEvent.Quiet.fetchFailed_eq (h : e.Quiet inp) : fetchFailed inp (e :: log) = fetchFailed inp log := by
  have hshort : e.short inp = false := by rw [HostEvent.short, h.noRead]; rfl
  rw [fetchFailed, h.wholeFetch_eq, hshort, Bool.false_or]
  cases hw : wholeFetch inp log with
  | true => rw [not_fetchFailed_of_whole hw]; rfl
  | false => rfl

/-- `n` bytes of `inp` are held, and after a failure they are what the fetch under way has received, and are not the whole. -/
def Held (inp : Input) (n : Nat) (log : List HostEvent) : Prop :=
  fetchFailed inp log = true → bytesReceived inp log = n ∧ n ≠ inp.length

/-- The duty after a BusError lets a command read `inp`. -/
def mayRead (inp : Input) (log : List HostEvent) : Bool :=
  !fetchFailed inp log || (lengthReported inp log == some (bytesReceived inp log) && bytesReceived inp log != inp.length)

theorem Held.of_quiet {n : Nat} (h : e.Quiet inp) (hn : Held inp n log) : Held inp n (e :: log) := by
  rw [Held, h.fetchFailed_eq, h.bytesReceived_eq]
  exact hn

theorem mayRead_of_quiet (h : e.Quiet inp) (hl : lengthReported inp (e :: log) = lengthReported inp log) :
    mayRead inp (e :: log) = mayRead inp log := by
  rw [mayRead, h.fetchFailed_eq, h.bytesReceived_eq, hl, ← mayRead]

/-- The bytes held and their number reported: a command may read the input. -/
theorem Held.mayRead_length {n : Nat} (hn : Held inp n log) (hle : n ≤ 24) (err : ErrCode) :
    mayRead inp (.access (writeTo .ibufLen (BitVec.ofNat 32 n)) err :: log) = true := by
  have hq := quiet_access inp (writeTo .ibufLen (BitVec.ofNat 32 n)) err
  have hmod : (BitVec.ofNat 32 n).toNat % 64 = n := by rw [BitVec.toNat_ofNat]; omega
  rw [mayRead, hq.fetchFailed_eq, hq.bytesReceived_eq, lengthReported_write, hmod]
  cases hf : fetchFailed inp log with
  | false => rfl
  | true =>
    obtain ⟨hbytes, hne⟩ := hn hf
    simp [hbytes, hne]

/-- A fetch whose reads ask for every byte of the input holds what they have received. -/
theorem held_of_fetchReads {reads : List (BusCall × Nat)} (h : fetchReads inp log = reads)
    (hle : ∀ p ∈ reads, p.2 ≤ p.1.asked) (hsum : (reads.map (·.1.asked)).sum = inp.length)
    (hcover : (inp.registers.all fun r => reads.any fun p => p.1.covers p.1.asked r) = true) :
    Held inp (reads.map (·.2)).sum log := by
  intro hfailed
  have hbytes : bytesReceived inp log = (reads.map (·.2)).sum := by rw [bytesReceived, h]
  refine ⟨hbytes, fun heq => ?_⟩
  have hall : ∀ p ∈ reads, p.2 = p.1.asked := by
    by_contra hnot
    push Not at hnot
    obtain ⟨p, hp, hne⟩ := hnot
    have hlt := List.sum_lt_sum (fun p : BusCall × Nat => p.2) (fun p => p.1.asked) hle ⟨p, hp, lt_of_le_of_ne (hle p hp) hne⟩
    omega
  have hwhole : wholeFetch inp log = true := by
    rw [wholeFetch, h, Bool.and_eq_true]
    refine ⟨List.all_eq_true.2 fun p hp => decide_eq_true (hall p hp).ge, ?_⟩
    refine List.all_eq_true.2 fun r hr => ?_
    obtain ⟨p, hp, hcov⟩ := List.any_eq_true.1 (List.all_eq_true.1 hcover r hr)
    exact List.any_eq_true.2 ⟨p, hp, by rw [hall p hp]; exact hcov⟩
  rw [not_fetchFailed_of_whole hwhole] at hfailed
  cases hfailed

/-- The end of a read of registers of `inp` that the fetch under way has not tried. -/
theorem fetchReads_busEnd {reads : List (BusCall × Nat)} {call : BusCall} (now : Nat) (reply : BusReply)
    (h : fetchReads inp log = reads) (hr : call.reads inp = true)
    (hn : (reads.any fun q => call.overlaps inp q.1) = false) :
    fetchReads inp (.busEnd now call reply :: log) = (call, (reply.bytes call.asked).length) :: reads := by
  rw [fetchReads_of_new (e := .busEnd now call reply) (p := (call, (reply.bytes call.asked).length)) log nofun (if_pos hr)
    (by rw [h]; exact hn), h]

theorem fetchReads_busEnd_write (now : Nat) (addr : Addr) (reg : Byte) (bytes : List Byte) (reply : BusReply) :
    fetchReads inp (.busEnd now (.write addr reg bytes) reply :: log) = fetchReads inp log := by
  refine HostEvent.Quiet.fetchReads_eq ⟨nofun, if_neg ?_⟩
  simp [BusCall.reads, BusCall.covers]

end

/-! ## Handles and slots -/

section
variable {dev : Device} {log : List HostEvent}

theorem handleIn_eq_true : handleIn log dev = true ↔ initOf dev log = .ready := beq_iff_eq

/-- The end of a transaction leaves a handle. -/
theorem handleIn_busEnd (now : Nat) (call : BusCall) (reply : BusReply) (h : handleIn log dev = true) :
    handleIn (.busEnd now call reply :: log) dev = true := by
  rw [handleIn_eq_true] at h ⊢
  cases call with
  | read => exact h
  | write => simp [initOf, h, InitState.next]

/-- An initialisation that ends with a ConfigurationError leaves no handle. -/
theorem handleIn_configurationError (dev : Device) (log : List HostEvent) :
    handleIn (.initialised dev .configurationError :: log) dev = false := by
  simp [handleIn, initOf, InitState.next]

theorem initOf_initialise (dev : Device) (log : List HostEvent) : initOf dev (.initialise dev :: log) = .running := by
  simp [initOf, InitState.next]

end

/-! ## The duties, event by event -/

/-- The command may be issued after these events. -/
structure CommandOk (cfg : Params) (i : Instr) (before : List HostEvent) : Prop where
  contract : ∀ dev ∈ commandDevices before i, initOf dev before ≠ .failed ∧ (clearsResults i = true → handleIn before dev = true)
  inputs : ∀ inp ∈ commandInputs before i, mayRead inp before = true
  reloaded : ∀ slot, i = .compPt slot → loadedIn cfg slot before = true

/-- The transaction may begin at `now` after these events, but for another one in flight. -/
structure StartOk (cfg : Params) (call : BusCall) (now : Nat) (before : List HostEvent) : Prop where
  waited : waitOk call now before = true
  measured : call.addr = .device .rh → (lastAccepted .rh (· == rhTrigger) before).all (· + 15 ≤ now) = true
  loaded : ∀ slot, call.usesPt slot = true → loadedSince cfg slot before = true

/-- The duties that a log keeps, but for the bus serialisation, which every program keeps. -/
structure Conduct (cfg : Params) (log : List HostEvent) : Prop where
  waits : waitsKept log = true
  measurements : measurementsComplete log = true
  contract : contractKept cfg log = true
  busErrors : busErrorsReported cfg log = true
  loads : loadsFirst cfg log = true
  reloads : slotsReloaded cfg log = true
  handles : handlesLoaded cfg log = true

section
variable {cfg : Params} {log : List HostEvent}

theorem Conduct.nil (cfg : Params) : Conduct cfg [] := ⟨rfl, rfl, rfl, rfl, rfl, rfl, rfl⟩

theorem Conduct.dutiesKept (h : Conduct cfg log) (hs : serialised log = true) : dutiesKept cfg log = true := by
  obtain ⟨hwaits, hmeasurements, hcontract, hbus, hloads, hreloads, -⟩ := h
  rw [Machine.dutiesKept, hwaits, hmeasurements, hs, hcontract, hbus, hloads, hreloads]
  rfl

theorem Conduct.reset (h : Conduct cfg log) : Conduct cfg (.reset :: log) :=
  ⟨h.waits, h.measurements, h.contract, h.busErrors, h.loads, h.reloads, h.handles⟩

theorem Conduct.initialise (h : Conduct cfg log) (dev : Device) : Conduct cfg (.initialise dev :: log) :=
  ⟨h.waits, h.measurements, h.contract, h.busErrors, h.loads, h.reloads, h.handles⟩

theorem Conduct.fetch (h : Conduct cfg log) (inp : Input) : Conduct cfg (.fetch inp :: log) :=
  ⟨h.waits, h.measurements, h.contract, h.busErrors, h.loads, h.reloads, h.handles⟩

theorem Conduct.busEnd (h : Conduct cfg log) (now : Nat) (call : BusCall) (reply : BusReply) :
    Conduct cfg (.busEnd now call reply :: log) :=
  ⟨h.waits, h.measurements, h.contract, h.busErrors, h.loads, h.reloads, h.handles⟩

/-- An initialisation may end; one of a pressure device with a handle only after its CAL_LOAD. -/
theorem Conduct.initialised (h : Conduct cfg log) {dev : Device} {result : InitResult}
    (hd : ∀ slot, dev = .pt slot → result = .handle → loadedSince cfg slot log = true) :
    Conduct cfg (.initialised dev result :: log) := by
  refine ⟨h.waits, h.measurements, h.contract, h.busErrors, h.loads, h.reloads, ?_⟩
  rw [handlesLoaded, everyEvent_cons, ← handlesLoaded, h.handles, Bool.and_true]
  cases dev with
  | pt slot =>
    cases result with
    | handle => exact hd slot rfl rfl
    | configurationError => rfl
  | rh => rfl
  | lux => rfl

theorem Conduct.busStart (h : Conduct cfg log) {now : Nat} {call : BusCall} (hs : StartOk cfg call now log) :
    Conduct cfg (.busStart now call :: log) := by
  obtain ⟨hwaited, hmeasured, hloaded⟩ := hs
  refine ⟨?_, ?_, h.contract, h.busErrors, ?_, h.reloads, h.handles⟩
  · exact Bool.and_eq_true_iff.2 ⟨hwaited, h.waits⟩
  · refine Bool.and_eq_true_iff.2 ⟨?_, h.measurements⟩
    by_cases haddr : call.addr = .device .rh
    · exact Bool.or_eq_true_iff.2 (.inr (hmeasured haddr))
    · exact Bool.or_eq_true_iff.2 (.inl (bne_iff_ne.2 haddr))
  · refine Bool.and_eq_true_iff.2 ⟨List.all_eq_true.2 fun slot _ => ?_, h.loads⟩
    cases hu : call.usesPt slot with
    | false => rfl
    | true => exact hloaded slot hu

theorem Conduct.access (h : Conduct cfg log) {e : PortEvent} {err : ErrCode}
    (hc : ∀ i, e.command cfg = some i → CommandOk cfg i log) : Conduct cfg (.access e err :: log) := by
  have hcommand {right : Instr → List HostEvent → Bool} (hr : ∀ i, CommandOk cfg i log → right i log = true)
      (hb : everyCommand cfg right log = true) : everyCommand cfg right (.access e err :: log) = true := by
    refine Bool.and_eq_true_iff.2 ⟨?_, hb⟩
    exact (Option.all_eq_true _ _).2 fun i hi => hr i (hc i hi)
  refine ⟨h.waits, h.measurements, hcommand ?_ h.contract, hcommand ?_ h.busErrors, h.loads, hcommand ?_ h.reloads, h.handles⟩
  · refine fun i hi => List.all_eq_true.2 fun dev hdev => ?_
    obtain ⟨hfailed, hhandle⟩ := hi.contract dev hdev
    cases hcl : clearsResults i with
    | false => simp [hfailed]
    | true => simp [hfailed, hhandle hcl]
  · exact fun i hi => List.all_eq_true.2 hi.inputs
  · intro i hi
    cases i with
    | compPt slot => exact hi.reloaded slot rfl
    | _ => rfl

end

/-! ## The commands of a program's accesses -/

/-- The word of a command makes the block run that command, or none where a field of it is out of range. -/
theorem command_cmdWrite_encode {cfg : Params} {i j : Instr} (h : (cmdWrite (encode i)).command cfg = some j) : j = i := by
  simp only [cmdWrite, PortEvent.command, if_pos] at h
  cases hw : i.wf cfg with
  | true =>
    rw [decode_encode hw] at h
    exact (Option.some.inj h).symm
  | false =>
    rw [decode_of_ill_formed (parse_encode i) hw] at h
    cases h

theorem command_cmdWrite_of_wf {cfg : Params} {i : Instr} (h : i.wf cfg = true) : (cmdWrite (encode i)).command cfg = some i := by
  simp only [cmdWrite, PortEvent.command, if_pos, decode_encode h]

/-- No other register's offset is that of CMD. -/
theorem command_writeTo {cfg : Params} {r : Reg} (v : Word) (h : r.offsetNat ≠ Reg.offsetNat .cmd) :
    (writeTo r v).command cfg = none := by
  refine if_neg fun hoff => h ?_
  rw [← Reg.offset_toNat, hoff, Reg.offset_toNat]

end Sys2Proof.Machine
end

section
/-! Every host program has at most one bus transaction in flight: the host waits for each reply (20_memory.md R64; 70_reset_and_hazards.md
R224). -/

namespace Sys2Proof.Machine

variable {y z : System}

/-- The transaction whose reply an act waits for. -/
def Act.flight : Act → Option BusCall
  | .reply c _ _ => some c
  | .access _ => none
  | .guarded _ _ _ => none
  | .rd _ _ => none
  | .bus _ _ _ => none
  | .wait _ => none
  | .branch _ _ => none
  | .jump _ => none
  | .assign _ _ => none
  | .initialise _ => none
  | .initialised _ _ => none
  | .fetch _ => none
  | .powerCycle _ => none

/-- The log is serialised, and the transaction in flight is the one whose reply the host's next act waits for. -/
structure System.Serial (y : System) : Prop where
  kept : serialised y.log = true
  flight : inFlight y.log = y.todo.head?.bind Act.flight
  rest : ∀ a ∈ y.todo.tail, a.flight = none

theorem head_flight_of_none {acts : List Act} (h : ∀ a ∈ acts, a.flight = none) : acts.head?.bind Act.flight = none := by
  cases acts with
  | nil => rfl
  | cons a rest => exact h a List.mem_cons_self

/-- Acts of which none waits for a reply. -/
theorem System.Serial.of_none (hk : serialised y.log = true) (hf : inFlight y.log = none) (hr : ∀ a ∈ y.todo, a.flight = none) :
    y.Serial :=
  ⟨hk, hf.trans (head_flight_of_none hr).symm, fun a ha => hr a (List.mem_of_mem_tail ha)⟩

theorem System.Serial.platform (h : y.Serial) : y.platform.Serial := by
  obtain ⟨hkept, hflight, hrest⟩ := h
  rcases y.platform_cases with ⟨-, hlog⟩ | ⟨-, hlog⟩ <;>
    exact ⟨by rw [hlog]; exact hkept, by rw [hlog, y.platform_todo]; exact hflight, by rw [y.platform_todo]; exact hrest⟩

/-- No statement stands for a wait for a reply. -/
theorem System.expand_flight {st : Stmt} {acts : List Act} (h : y.expand st = .ok acts) : ∀ a ∈ acts, a.flight = none := by
  cases st with
  | ldbuf src =>
    simp only [System.expand] at h
    split at h
    · intro a ha
      rw [← Except.ok.inj h, List.mem_map] at ha
      obtain ⟨e, -, rfl⟩ := ha
      rfl
    · cases h
  | setk kr kc =>
    intro a ha
    rw [← Except.ok.inj h, List.mem_map] at ha
    obtain ⟨e, -, rfl⟩ := ha
    rfl
  | _ => rw [← Except.ok.inj h]; simp [Act.flight]

/-- Nothing of the bus has happened: the log has at most one more event, no transaction's, and no act is left but the rest. -/
structure System.OffBus (y z : System) : Prop where
  kept : serialised z.log = serialised y.log
  flight : inFlight z.log = inFlight y.log
  todo : z.todo = y.todo ∨ z.todo = []

theorem System.jump_offBus {label : Nat} (h : y.jump label = .ok z) : y.OffBus z := by
  obtain ⟨k, -, rfl⟩ := System.jump_ok h
  exact ⟨rfl, rfl, .inr rfl⟩

theorem System.access_offBus {e : PortEvent} (h : y.access e = .ok z) : y.OffBus z := by
  obtain ⟨s, -, rfl⟩ := System.access_ok h
  exact ⟨rfl, rfl, .inl rfl⟩

theorem System.act_offBus {a : Act} (h : y.act a = .ok z) (hf : a.flight = none) (hb : ∀ c dst course, a ≠ .bus c dst course) :
    y.OffBus z := by
  cases a with
  | access e => exact System.access_offBus h
  | guarded c e label =>
    rcases System.guarded_ok h with ⟨-, h⟩ | ⟨-, h⟩
    · exact System.access_offBus h
    · exact System.jump_offBus h
  | rd off dst =>
    simp only [System.act] at h
    cases hx : y.access (.read off) with
    | error e => rw [hx] at h; cases h
    | ok x =>
      rw [hx] at h
      rw [← Except.ok.inj h]
      obtain ⟨hkept, hflight, htodo⟩ := System.access_offBus hx
      exact ⟨hkept, hflight, htodo⟩
  | bus c dst course => exact absurd rfl (hb c dst course)
  | reply c dst course => cases hf
  | branch c label =>
    simp only [System.act] at h
    split at h
    · exact System.jump_offBus h
    · rw [← Except.ok.inj h]; exact ⟨rfl, rfl, .inl rfl⟩
  | jump label => exact System.jump_offBus h
  | _ => rw [← Except.ok.inj h]; exact ⟨rfl, rfl, .inl rfl⟩

theorem System.follow_log {why : HostStop} {course : Course} (h : y.follow why course = .ok z) :
    z.log = y.log ∧ (z.todo = y.todo ∨ z.todo = []) := by
  rcases System.follow_ok h with ⟨-, rfl⟩ | ⟨label, -, h⟩
  · exact ⟨rfl, .inl rfl⟩
  · obtain ⟨k, -, rfl⟩ := System.jump_ok h
    exact ⟨rfl, .inr rfl⟩

theorem System.endBus_log {c : BusCall} {dst : Nat} {course : Course} (h : y.endBus c dst course = .ok z) :
    (∃ now r, z.log = .busEnd now c r :: y.log) ∧ (z.todo = y.todo ∨ z.todo = []) := by
  cases c with
  | read addr reg len =>
    obtain ⟨r, rest, -, ⟨bs, -, rfl⟩ | ⟨bs, -, h⟩⟩ := System.endBus_read_ok h
    · exact ⟨⟨_, _, rfl⟩, .inl rfl⟩
    · obtain ⟨hlog, htodo⟩ := System.follow_log h
      exact ⟨⟨_, _, hlog⟩, htodo⟩
  | write addr reg bytes =>
    obtain ⟨r, rest, -, ⟨-, rfl⟩ | ⟨-, why, h⟩⟩ := System.endBus_write_ok h
    · exact ⟨⟨_, _, rfl⟩, .inl rfl⟩
    · obtain ⟨hlog, htodo⟩ := System.follow_log h
      exact ⟨⟨_, _, hlog⟩, htodo⟩

theorem System.Serial.act {a : Act} {rest : List Act} (h : y.Serial) (ht : y.todo = a :: rest)
    (hact : System.act { y with todo := rest } a = .ok z) : z.Serial := by
  obtain ⟨hkept, hflight, hrest⟩ := h
  rw [ht] at hflight hrest
  have hleft : z.todo = rest ∨ z.todo = [] → ∀ b ∈ z.todo, b.flight = none := by
    rintro (hz | hz) b hb
    · exact hrest b (by rw [hz] at hb; exact hb)
    · rw [hz] at hb; cases hb
  by_cases hb : ∃ c dst course, a = .bus c dst course
  · obtain ⟨c, dst, course, rfl⟩ := hb
    rw [← Except.ok.inj hact]
    have hnone : inFlight y.log = none := hflight
    refine ⟨?_, rfl, hrest⟩
    exact Bool.and_eq_true_iff.2 ⟨beq_iff_eq.2 hnone, hkept⟩
  · push Not at hb
    cases hf : a.flight with
    | none =>
      obtain ⟨hk, hfl, htodo⟩ := System.act_offBus hact hf hb
      exact .of_none (hk.trans hkept) (hfl.trans (hflight.trans hf)) (hleft htodo)
    | some c =>
      cases a with
      | reply call dst course =>
        obtain ⟨⟨now, r, hlog⟩, htodo⟩ := System.endBus_log hact
        have hcall : inFlight y.log = some call := hflight
        refine .of_none ?_ (by rw [hlog]; rfl) (hleft htodo)
        rw [hlog]
        exact Bool.and_eq_true_iff.2 ⟨beq_iff_eq.2 hcall, hkept⟩
      | _ => cases hf

theorem System.Serial.step (h : y.Serial) (hs : y.step = .ok z) : z.Serial := by
  rcases System.host_ok hs with ⟨a, rest, ht, hact⟩ | ⟨st, acts, ht, -, hexp, rfl⟩
  · exact h.platform.act ht hact
  · obtain ⟨hkept, hflight, -⟩ := h.platform
    rw [ht] at hflight
    exact .of_none hkept hflight (System.expand_flight hexp)

/-- A run of any program keeps the bus serialisation. -/
theorem System.run_serialised (s : State) (prog : List Stmt) (replies : List BusReply) (resets : List Bool) (k : Nat) :
    serialised (System.run k (System.start s prog replies resets)).log = true :=
  (System.run_induction (P := System.Serial) (fun _ _ ha hs => ha.step hs) k _ ⟨rfl, rfl, List.forall_mem_nil _⟩).kept

end Sys2Proof.Machine
end

section
/-! A logic for host programs: a proof outline gives each point of a program an assertion that a reset of the block and the start of
a transaction keep, so that no run of the program breaks the host's duties. -/

namespace Sys2Proof.Machine

/-! ## Assertions -/

/-- What a proof outline says of a point of a program. It does not speak of where the host stands, and a reset of the block and the
start of a transaction keep it. -/
structure Assertion where
  holds : System → Prop
  control : ∀ {y : System} (pos : Nat) (todo : List Act) (replies : List BusReply) (resets : List Bool), holds y →
    holds { y with pos := pos, todo := todo, replies := replies, resets := resets }
  reset : ∀ {y : System}, holds y → holds ({ y with scp := y.scp.platformReset }.note .reset)
  start : ∀ {y : System} (call : BusCall), holds y → holds (y.note (.busStart y.clock call))

theorem Assertion.platform (A : Assertion) {y : System} (h : A.holds y) : A.holds y.platform := by
  unfold System.platform
  split
  · exact h
  · exact A.control _ _ _ _ (A.reset h)
  · exact A.control y.pos y.todo y.replies _ h

/-- An assertion about the bytes held, the time gone by and the log. -/
def Assertion.ofView (P : (Nat → List Byte) → Nat → List HostEvent → Prop)
    (hreset : ∀ bufs now log, P bufs now log → P bufs now (.reset :: log))
    (hstart : ∀ bufs now call log, P bufs now log → P bufs now (.busStart now call :: log)) : Assertion where
  holds y := P y.buf y.clock y.log
  control _ _ _ _ h := h
  reset h := hreset _ _ _ h
  start _ h := hstart _ _ _ _ h

/-- Nothing is known. -/
def Assertion.trivial : Assertion := .ofView (fun _ _ _ => True) (fun _ _ _ h => h) (fun _ _ _ _ h => h)

variable {cfg : Params} {clean : Prop} {y z : System}

/-! ## What every point of a run keeps -/

/-- The event is a CAL_LOAD of `slot` that has ended with OK. -/
def HostEvent.loads (cfg : Params) (slot : Fin 4) : HostEvent → Bool
  | .access e err => e.command cfg == some (.calLoad slot) && err == .ok
  | _ => false

/-- The duties are kept, and where the platform never resets the block (`clean`) every slot that has been loaded is valid. -/
structure Good (cfg : Params) (clean : Prop) (y : System) : Prop where
  cfg_eq : y.scp.cfg = cfg
  conduct : Conduct cfg y.log
  quiet : clean → y.resets = []
  valid : clean → ∀ slot, y.log.any (·.loads cfg slot) = true → (y.scp.cal[slot]).valid = true

theorem Good.start (s : State) (prog : List Stmt) (replies : List BusReply) {resets : List Bool} (h : clean → resets = []) :
    Good s.cfg clean (System.start s prog replies resets) :=
  ⟨rfl, .nil _, h, fun _ _ hl => absurd hl Bool.false_ne_true⟩

theorem Good.control (h : Good cfg clean y) (pos : Nat) (todo : List Act) : Good cfg clean { y with pos := pos, todo := todo } :=
  ⟨h.cfg_eq, h.conduct, h.quiet, h.valid⟩

theorem Good.platform (h : Good cfg clean y) : Good cfg clean y.platform := by
  by_cases hc : clean
  · rw [System.platform_of_nil (h.quiet hc)]
    exact h
  · refine ⟨?_, ?_, fun hx => absurd hx hc, fun hx => absurd hx hc⟩
    · rcases y.platform_cases with ⟨hscp, -⟩ | ⟨hscp, -⟩ <;> rw [hscp] <;> exact h.cfg_eq
    · rcases y.platform_cases with ⟨-, hlog⟩ | ⟨-, hlog⟩ <;> rw [hlog]
      · exact h.conduct
      · exact h.conduct.reset

/-- An event that is no access leaves the block. -/
theorem Good.note (h : Good cfg clean y) {e : HostEvent} (hc : Conduct cfg (e :: y.log)) (he : ∀ slot, e.loads cfg slot = false) :
    Good cfg clean (y.note e) := by
  refine ⟨h.cfg_eq, hc, h.quiet, fun hx slot hl => h.valid hx slot ?_⟩
  rwa [System.note_log, List.any_cons, he slot, Bool.false_or] at hl

/-! ## Accesses -/

theorem System.access_serve {e : PortEvent} (h : y.access e = .ok z) :
    ∃ s, serve e y.scp = .next s ∧ z = ({ y with scp := s }).note (.access e s.err) := System.access_ok h

/-- A port event that runs a command is a write of a word that decodes to it. -/
theorem command_eq_some {e : PortEvent} {i : Instr} (h : e.command cfg = some i) : ∃ w, e = cmdWrite w ∧ decode cfg w = .ok i := by
  cases e with
  | read off => cases h
  | reset => cases h
  | write off v =>
    simp only [PortEvent.command] at h
    split at h
    next hoff =>
      refine ⟨v, by rw [hoff]; rfl, ?_⟩
      cases hd : decode cfg v with
      | ok j => rw [hd] at h; rw [Option.some.inj h]
      | error _ => rw [hd] at h; cases h
    next => cases h

/-- A CAL_LOAD that ends with OK leaves its slot valid (41_calibration.md R110). -/
theorem valid_of_calLoad_ok {s t : State} {e : PortEvent} {slot : Fin 4} (hc : e.command s.cfg = some (.calLoad slot))
    (hs : serve e s = .next t) (hok : t.err = .ok) : (t.cal[slot]).valid = true := by
  obtain ⟨w, rfl, hd⟩ := command_eq_some hc
  rw [serve_cmdWrite, execute_of_decode hd] at hs
  rcases exec_ends hs with ⟨-, rfl⟩ | ⟨hne, rfl⟩
  · simp [State.completed]
  · exact absurd hok hne

/-- The event leaves every valid slot valid. -/
structure PortEvent.KeepsSlots (cfg : Params) (e : PortEvent) : Prop where
  noReset : e ≠ .reset
  noRelease : ∀ slot, e.command cfg ≠ some (.calRelease slot)

theorem Good.access (h : Good cfg clean y) {e : PortEvent} {s : State} (hs : serve e y.scp = .next s)
    (hk : e.KeepsSlots cfg) (hc : ∀ i, e.command cfg = some i → CommandOk cfg i y.log) :
    Good cfg clean ({ y with scp := s }.note (.access e s.err)) := by
  obtain ⟨hcfg, hconduct, hquiet, hvalid⟩ := h
  refine ⟨(serve_cfg hs).trans hcfg, hconduct.access hc, hquiet, fun hx slot hl => ?_⟩
  rw [System.note_log, List.any_cons, Bool.or_eq_true] at hl
  rcases hl with hnow | hbefore
  · obtain ⟨hload, hok⟩ := Bool.and_eq_true_iff.1 hnow
    exact valid_of_calLoad_ok (by rw [hcfg]; exact beq_iff_eq.1 hload) hs (beq_iff_eq.1 hok)
  · have hv := hvalid hx slot hbefore
    rcases serve_keeps_valid_slot hv hs with hkept | hreset | ⟨w, rfl, hd⟩
    · exact (congrArg CalSlot.valid hkept).trans hv
    · exact absurd hreset hk.noReset
    · refine absurd ?_ (hk.noRelease slot)
      rw [hcfg] at hd
      simp only [cmdWrite, PortEvent.command, if_pos, hd]

/-! ## Proof outlines -/

section
variable (cfg clean) (lab : Nat → Assertion)

/-- The host goes on with the acts it has left, and `B` holds. -/
structure Goes (B : Assertion) (y z : System) : Prop where
  holds : B.holds z
  prog : z.prog = y.prog
  pos : z.pos = y.pos
  todo : z.todo = y.todo

/-- The host has gone to a label, and the label's assertion holds. -/
structure Jumps (y z : System) (label : Nat) : Prop where
  holds : (lab label).holds z
  prog : z.prog = y.prog
  pos : (y.prog.findIdx? fun st => st == .label label) = some z.pos
  todo : z.todo = []

/-- What holds when an act that is no start of a transaction has run from `y` to `z`. -/
structure Runs (B : Assertion) (y z : System) : Prop where
  good : Good cfg clean z
  next : Goes B y z ∨ ∃ label, Jumps lab y z label

/-- From where `A` holds the acts lead to where `B` holds, or to a label. -/
inductive Acts : Assertion → List Act → Assertion → Prop
  | done {A B : Assertion} (h : ∀ y, A.holds y → B.holds y) : Acts A [] B
  | act {A B C : Assertion} {a : Act} {rest : List Act}
      (h : ∀ y z, Good cfg clean y → A.holds y → y.act a = .ok z → Runs cfg clean lab B y z) (hrest : Acts B rest C) :
      Acts A (a :: rest) C
  | bus {A C : Assertion} {c : BusCall} {dst : Nat} {course : Course} {rest : List Act}
      (h : ∀ y, A.holds y → StartOk cfg c y.clock y.log) (hrest : Acts A (.reply c dst course :: rest) C) :
      Acts A (.bus c dst course :: rest) C

/-- From where `A` holds the statement leads to where `B` holds, or to a label; and a label is reached with its assertion. -/
structure Triple (A : Assertion) (st : Stmt) (B : Assertion) : Prop where
  acts : ∀ y acts, Good cfg clean y → A.holds y → y.expand st = .ok acts →
    ∃ P : Assertion, P.holds y ∧ Acts cfg clean lab P acts B
  label : ∀ l, st = .label l → ∀ y, (lab l).holds y → B.holds y

/-- A program with an assertion at each of its points. -/
inductive Outline : Assertion → List Stmt → Assertion → Prop
  | nil (A : Assertion) : Outline A [] A
  | cons {A B C : Assertion} {st : Stmt} {rest : List Stmt} (h : Triple cfg clean lab A st B) (hrest : Outline B rest C) :
      Outline A (st :: rest) C

end

section
variable {lab : Nat → Assertion} {A B C : Assertion}

theorem Outline.append {p q : List Stmt} (hp : Outline cfg clean lab A p B) (hq : Outline cfg clean lab B q C) :
    Outline cfg clean lab A (p ++ q) C := by
  induction hp with
  | nil => exact hq
  | cons h _ ih => exact .cons h (ih hq)

theorem Outline.drop {p : List Stmt} (h : Outline cfg clean lab A p C) (n : Nat) : ∃ B, Outline cfg clean lab B (p.drop n) C := by
  induction h generalizing n with
  | nil A => exact ⟨A, by rw [List.drop_nil]; exact .nil A⟩
  | cons h hrest ih =>
    cases n with
    | zero => exact ⟨_, .cons h hrest⟩
    | succ n => exact ih n

/-- A program outlined from `label:` on is outlined from there with the label's own assertion. -/
theorem Outline.at_label {p : List Stmt} {label k : Nat} (h : Outline cfg clean lab A p C)
    (hk : (p.findIdx? fun st => st == .label label) = some k) : Outline cfg clean lab (lab label) (p.drop k) C := by
  obtain ⟨hlt, hst, -⟩ := List.findIdx?_eq_some_iff_getElem.1 hk
  obtain ⟨B, hB⟩ := h.drop k
  rw [List.drop_eq_getElem_cons hlt, beq_iff_eq.1 hst] at hB ⊢
  cases hB with
  | cons ht hrest =>
    refine .cons ⟨fun y acts _ hy hexp => ⟨lab label, hy, ?_⟩, ht.label⟩ hrest
    rw [← Except.ok.inj hexp]
    exact .done (ht.label label rfl)

/-! ## Soundness -/

/-- A point of a run of an outlined program. -/
structure Outlined (cfg : Params) (clean : Prop) (lab : Nat → Assertion) (y : System) : Prop where
  good : Good cfg clean y
  prog : ∃ A C, Outline cfg clean lab A y.prog C
  here : ∃ A B C : Assertion, A.holds y ∧ Acts cfg clean lab A y.todo B ∧ Outline cfg clean lab B (y.prog.drop y.pos) C

theorem Outlined.platform (h : Outlined cfg clean lab y) : Outlined cfg clean lab y.platform := by
  obtain ⟨hgood, hprog, A, B, C, hA, hacts, hrest⟩ := h
  refine ⟨hgood.platform, ?_, A, B, C, A.platform hA, ?_, ?_⟩
  · rw [y.platform_prog]; exact hprog
  · rw [y.platform_todo]; exact hacts
  · rw [y.platform_prog, y.platform_pos]; exact hrest

theorem Outlined.host (h : Outlined cfg clean lab y) (hz : y.host = .ok z) : Outlined cfg clean lab z := by
  obtain ⟨hgood, ⟨A₀, C₀, hprog⟩, A, B, C, hA, hacts, hrest⟩ := h
  rcases System.host_ok hz with ⟨a, rest, ht, hact⟩ | ⟨st, acts, ht, hst, hexp, rfl⟩
  · rw [ht] at hacts
    have hgood' := hgood.control y.pos rest
    have hA' := A.control y.pos rest y.replies y.resets hA
    cases hacts with
    | act hstep hacts' =>
      obtain ⟨hgoodz, ⟨hB, hp, hpos, htodo⟩ | ⟨label, hl, hp, hpos, htodo⟩⟩ := hstep _ z hgood' hA' hact
      · refine ⟨hgoodz, ?_, _, B, C, hB, ?_, ?_⟩
        · rw [hp]; exact ⟨A₀, C₀, hprog⟩
        · rw [htodo]; exact hacts'
        · rw [hp, hpos]; exact hrest
      · refine ⟨hgoodz, ?_, lab label, lab label, C₀, hl, ?_, ?_⟩
        · rw [hp]; exact ⟨A₀, C₀, hprog⟩
        · rw [htodo]; exact .done fun _ h => h
        · rw [hp]; exact hprog.at_label hpos
    | bus hstart hacts' =>
      rw [← Except.ok.inj hact]
      exact ⟨(hgood.control y.pos _).note (hgood.conduct.busStart (hstart y hA)) fun _ => rfl, ⟨A₀, C₀, hprog⟩, A, B, C,
        A.start _ (A.control y.pos _ y.replies y.resets hA'), hacts', hrest⟩
  · rw [ht] at hacts
    cases hacts with
    | done hAB =>
      obtain ⟨hlt, hget⟩ := List.getElem?_eq_some_iff.1 hst
      rw [List.drop_eq_getElem_cons hlt, hget] at hrest
      cases hrest with
      | cons ht' hrest' =>
        obtain ⟨P, hP, hPacts⟩ := ht'.acts y acts hgood (hAB y hA) hexp
        exact ⟨hgood.control _ _, ⟨A₀, C₀, hprog⟩, P, _, C, P.control _ _ y.replies y.resets hP, hPacts, hrest'⟩

/-- A run of an outlined program keeps what every point of it keeps. -/
theorem Outline.run_good {s : State} {prog : List Stmt} (h : Outline s.cfg clean lab A prog C) (replies : List BusReply)
    {resets : List Bool} (hr : clean → resets = []) (hA : A.holds (System.start s prog replies resets)) (k : Nat) :
    Good s.cfg clean (System.run k (System.start s prog replies resets)) :=
  (System.run_induction (P := Outlined s.cfg clean lab) (fun _ _ ha hs => ha.platform.host hs) k _
    ⟨.start s prog replies hr, ⟨A, C, h⟩, A, A, C, hA, .done fun _ h => h, h⟩).good

end

end Sys2Proof.Machine
end

section
/-! The rules of the logic for host programs, one for each kind of statement (30_encoding.md R78, R79). -/

namespace Sys2Proof.Machine

variable {cfg : Params} {clean : Prop} {lab : Nat → Assertion} {A B : Assertion} {y z : System}

/-! ## Acts -/

theorem runs_next (hg : Good cfg clean z) (hB : B.holds z) (hp : z.prog = y.prog) (hpos : z.pos = y.pos)
    (ht : z.todo = y.todo) : Runs cfg clean lab B y z :=
  ⟨hg, .inl ⟨hB, hp, hpos, ht⟩⟩

theorem runs_jump {label : Nat} (hg : Good cfg clean y) (hl : (lab label).holds y) (h : y.jump label = .ok z) :
    Runs cfg clean lab B y z := by
  obtain ⟨k, hk, rfl⟩ := System.jump_ok h
  exact ⟨hg.control _ _, .inr ⟨label, (lab label).control _ _ y.replies y.resets hl, rfl, hk, rfl⟩⟩

theorem runs_access {e : PortEvent} (hk : e.KeepsSlots cfg) (hg : Good cfg clean y)
    (hc : ∀ i, e.command cfg = some i → CommandOk cfg i y.log)
    (hB : ∀ s, serve e y.scp = .next s → B.holds ({ y with scp := s }.note (.access e s.err))) (h : y.access e = .ok z) :
    Runs cfg clean lab B y z := by
  obtain ⟨s, hs, rfl⟩ := System.access_serve h
  exact runs_next (hg.access hs hk hc) (hB s hs) rfl rfl rfl

theorem Acts.single {a : Act}
    (h : ∀ y z, Good cfg clean y → A.holds y → y.act a = .ok z → Runs cfg clean lab B y z) : Acts cfg clean lab A [a] B :=
  .act h (.done fun _ h => h)

/-- A statement that stands for the same acts in every state. -/
theorem Triple.of_acts {st : Stmt} {acts : List Act} (h : Acts cfg clean lab A acts B) (hexp : ∀ y : System, y.expand st = .ok acts)
    (hl : ∀ l, st ≠ .label l) : Triple cfg clean lab A st B where
  acts y acts' _ hy he := ⟨A, hy, by rw [← Except.ok.inj ((hexp y).symm.trans he)]; exact h⟩
  label l he := absurd he (hl l)

/-! ## Events the host notes, waits and branches -/

theorem triple_initialise {dev : Device} (h : ∀ y, A.holds y → B.holds (y.note (.initialise dev))) :
    Triple cfg clean lab A (.initialise dev) B := by
  refine .of_acts (.single fun y z hg hA hz => ?_) (fun _ => rfl) nofun
  rw [← Except.ok.inj hz]
  exact runs_next (hg.note (hg.conduct.initialise dev) fun _ => rfl) (h y hA) rfl rfl rfl

theorem triple_initialised {dev : Device} {result : InitResult}
    (hd : ∀ y, A.holds y → ∀ slot, dev = .pt slot → result = .handle → loadedSince cfg slot y.log = true)
    (h : ∀ y, A.holds y → B.holds (y.note (.initialised dev result))) :
    Triple cfg clean lab A (.initialised dev result) B := by
  refine .of_acts (.single fun y z hg hA hz => ?_) (fun _ => rfl) nofun
  rw [← Except.ok.inj hz]
  exact runs_next (hg.note (hg.conduct.initialised (hd y hA)) fun _ => rfl) (h y hA) rfl rfl rfl

theorem triple_fetch {inp : Input} (h : ∀ y, A.holds y → B.holds (y.startFetch inp)) :
    Triple cfg clean lab A (.fetch inp) B := by
  refine .of_acts (.single fun y z hg hA hz => ?_) (fun _ => rfl) nofun
  rw [← Except.ok.inj hz]
  obtain ⟨hcfg, hconduct, hquiet, hvalid⟩ := hg.note (hg.conduct.fetch inp) fun _ => rfl
  exact runs_next ⟨hcfg, hconduct, hquiet, hvalid⟩ (h y hA) rfl rfl rfl

theorem triple_wait {ms : Nat} (h : ∀ y, A.holds y → B.holds { y with clock := y.clock + ms }) :
    Triple cfg clean lab A (.wait ms) B := by
  refine .of_acts (.single fun y z hg hA hz => ?_) (fun _ => rfl) nofun
  rw [← Except.ok.inj hz]
  exact runs_next ⟨hg.cfg_eq, hg.conduct, hg.quiet, hg.valid⟩ (h y hA) rfl rfl rfl

theorem runs_branch {c : Cond} {label : Nat} (hg : Good cfg clean y) (hj : y.holds c = true → (lab label).holds y)
    (hn : y.holds c = false → B.holds y) (h : y.act (.branch c label) = .ok z) : Runs cfg clean lab B y z := by
  simp only [System.act] at h
  split at h
  next hc => exact runs_jump hg (hj hc) h
  next hc =>
    rw [← Except.ok.inj h]
    exact runs_next hg (hn (Bool.eq_false_of_not_eq_true hc)) rfl rfl rfl

theorem triple_ifGoto {c : Cond} {label : Nat} (hj : ∀ y, Good cfg clean y → A.holds y → y.holds c = true → (lab label).holds y)
    (hn : ∀ y, Good cfg clean y → A.holds y → y.holds c = false → B.holds y) :
    Triple cfg clean lab A (.ifGoto c label) B :=
  .of_acts (.single fun y _ hg hA => runs_branch hg (hj y hg hA) (hn y hg hA)) (fun _ => rfl) nofun

theorem triple_goto {label : Nat} (h : ∀ y, A.holds y → (lab label).holds y) : Triple cfg clean lab A (.goto label) B :=
  .of_acts (acts := [.jump label]) (.single fun y _ hg hA hz => runs_jump hg (h y hA) hz) (fun _ => rfl) nofun

theorem triple_label {label : Nat} (h : ∀ y, A.holds y → B.holds y) (hl : ∀ y, (lab label).holds y → B.holds y) :
    Triple cfg clean lab A (.label label) B where
  acts y acts _ hA he := ⟨A, hA, by rw [← Except.ok.inj he]; exact .done h⟩
  label l he := by rw [← Stmt.label.inj he]; exact hl

/-! ## Accesses of the block -/

theorem keepsSlots_read (off : Off) : (PortEvent.read off).KeepsSlots cfg := ⟨nofun, nofun⟩

theorem keepsSlots_writeTo {r : Reg} (v : Word) (h : r.offsetNat ≠ Reg.offsetNat .cmd) : (writeTo r v).KeepsSlots cfg :=
  ⟨nofun, fun slot hc => by rw [command_writeTo v h] at hc; cases hc⟩

theorem keepsSlots_cmd {i : Instr} (h : ∀ slot, i ≠ .calRelease slot) : (cmdWrite (encode i)).KeepsSlots cfg :=
  ⟨nofun, fun slot hc => h slot (command_cmdWrite_encode hc).symm⟩

theorem triple_cmd {i : Instr} (hi : ∀ slot, i ≠ .calRelease slot) (hc : ∀ y, A.holds y → CommandOk cfg i y.log)
    (h : ∀ y s, Good cfg clean y → A.holds y → serve (cmdWrite (encode i)) y.scp = .next s →
      B.holds ({ y with scp := s }.note (.access (cmdWrite (encode i)) s.err))) :
    Triple cfg clean lab A (.cmd i) B := by
  refine .of_acts (.single fun y z hg hA hz => ?_) (fun _ => rfl) nofun
  refine runs_access (keepsSlots_cmd hi) hg (fun j hj => ?_) (fun s => h y s hg hA) hz
  rw [command_cmdWrite_encode hj]
  exact hc y hA

theorem triple_cmdIf {c : Cond} {i : Instr} {label : Nat} (hi : ∀ slot, i ≠ .calRelease slot)
    (hc : ∀ y, Good cfg clean y → A.holds y → y.holds c = true → CommandOk cfg i y.log)
    (h : ∀ y s, A.holds y → B.holds ({ y with scp := s }.note (.access (cmdWrite (encode i)) s.err)))
    (hj : ∀ y, A.holds y → (lab label).holds y) :
    Triple cfg clean lab A (.cmdIf c i label) B := by
  refine .of_acts (.single fun y z hg hA hz => ?_) (fun _ => rfl) nofun
  rcases System.guarded_ok hz with ⟨hcond, hz⟩ | ⟨-, hz⟩
  · refine runs_access (keepsSlots_cmd hi) hg (fun j hj => ?_) (fun s _ => h y s hA) hz
    rw [command_cmdWrite_encode hj]
    exact hc y hg hA hcond
  · exact runs_jump hg (hj y hA) hz

/-- The host has read a register into a variable. -/
def System.afterRead (y : System) (off : Off) (dst : Nat) (s : State) : System :=
  { { y with scp := s }.note (.access (.read off) s.err) with vars := (dst, s.lastRead.toNat) :: y.vars }

theorem runs_rd {off : Off} {dst : Nat} (hg : Good cfg clean y)
    (hB : ∀ s, serve (.read off) y.scp = .next s → B.holds (y.afterRead off dst s)) (h : y.act (.rd off dst) = .ok z) :
    Runs cfg clean lab B y z := by
  simp only [System.act] at h
  split at h
  next x hx =>
    obtain ⟨s, hs, rfl⟩ := System.access_serve hx
    rw [← Except.ok.inj h]
    obtain ⟨hcfg, hconduct, hquiet, hvalid⟩ := hg.access hs (keepsSlots_read off) nofun
    exact runs_next ⟨hcfg, hconduct, hquiet, hvalid⟩ (hB s hs) rfl rfl rfl
  next => cases h

theorem triple_rd {r : Reg} {dst : Nat} (h : ∀ y s, A.holds y → B.holds (y.afterRead r.offset dst s)) :
    Triple cfg clean lab A (.rd r dst) B :=
  .of_acts (.single fun y _ hg hA => runs_rd hg fun s _ => h y s hA) (fun _ => rfl) nofun

/-- BERR reads STATUS, and goes to its label where an error code stands there. -/
theorem triple_berr {dst label : Nat} (M : Assertion)
    (h : ∀ y s, A.holds y → serve (.read Reg.status.offset) y.scp = .next s → M.holds (y.afterRead Reg.status.offset dst s))
    (hj : ∀ y, M.holds y → (lab label).holds y) (hn : ∀ y, M.holds y → y.holds (errCond dst) = false → B.holds y) :
    Triple cfg clean lab A (.berr dst label) B := by
  refine .of_acts (.act (fun y _ hg hA => runs_rd (B := M) hg (h y · hA)) (.single fun y _ hg hM => ?_)) (fun _ => rfl) nofun
  exact runs_branch hg (fun _ => hj y hM) (hn y hM)

/-- LDBUF, with an assertion `P n` about the number `n` of bytes it names that the writes of IBUF keep. -/
theorem triple_ldbuf {src : List Bytes} (P : Nat → Assertion) (h : ∀ y, A.holds y → (P (y.bytes src).length).holds y)
    (hword : ∀ n y s k v err, (P n).holds y → (P n).holds ({ y with scp := s }.note (.access (writeTo (.ibufW k) v) err)))
    (hlen : ∀ n y s err, n ≤ 24 → (P n).holds y →
      B.holds ({ y with scp := s }.note (.access (writeTo .ibufLen (BitVec.ofNat 32 n)) err))) :
    Triple cfg clean lab A (.ldbuf src) B where
  label l he := nomatch he
  acts y acts _ hA he := by
    simp only [System.expand] at he
    split at he
    next hle =>
      refine ⟨P (y.bytes src).length, h y hA, ?_⟩
      rw [← Except.ok.inj he, ldbufAccesses, List.map_append, List.map_map]
      generalize y.bytes src = bs at hle
      generalize ((List.finRange 6).filter fun k => 4 * k.val < bs.length) = ks
      induction ks with
      | nil =>
        refine .single fun y z hg hP hz => ?_
        refine runs_access (keepsSlots_writeTo _ (by decide)) hg (fun i hi => ?_) (fun s _ => hlen _ y s s.err hle hP) hz
        rw [command_writeTo _ (by decide)] at hi
        cases hi
      | cons k ks ih =>
        have hoff : (Reg.ibufW k).offsetNat ≠ Reg.offsetNat .cmd := by simp only [Reg.offsetNat]; omega
        refine .act (fun y z hg hP hz => ?_) ih
        refine runs_access (keepsSlots_writeTo _ hoff) hg (fun i hi => ?_) (fun s _ => hword _ y s k _ s.err hP) hz
        rw [command_writeTo _ hoff] at hi
        cases hi
    next => cases he

/-! ## Bus transactions -/

theorem Good.busEnd (hg : Good cfg clean y) (rest : List BusReply) (c : BusCall) (r : BusReply) :
    Good cfg clean ({ y with replies := rest }.note (.busEnd y.clock c r)) := by
  obtain ⟨hcfg, hconduct, hquiet, hvalid⟩ := hg.note (hg.conduct.busEnd y.clock c r) fun _ => rfl
  exact ⟨hcfg, hconduct, hquiet, hvalid⟩

theorem Good.setBuf (hg : Good cfg clean y) (name : Nat) (addr : Addr) (bs : List Byte) : Good cfg clean (y.setBuf name addr bs) :=
  ⟨hg.cfg_eq, hg.conduct, hg.quiet, hg.valid⟩

/-- A run from a system that stands at the same point of the same program. -/
theorem Runs.of_same {x : System} (h : Runs cfg clean lab B x z) (hp : x.prog = y.prog) (hpos : x.pos = y.pos)
    (ht : x.todo = y.todo) : Runs cfg clean lab B y z := by
  obtain ⟨hgood, hgoes | ⟨label, hjump⟩⟩ := h
  · exact runs_next hgood hgoes.holds (hgoes.prog.trans hp) (hgoes.pos.trans hpos) (hgoes.todo.trans ht)
  · exact ⟨hgood, .inr ⟨label, hjump.holds, hjump.prog.trans hp, by rw [← hp]; exact hjump.pos, hjump.todo⟩⟩

/-- A read of the bus: whatever it answers, the bytes received are held. -/
theorem triple_busRead {addr : Addr} {reg : Byte} {len dst : Nat} {course : Course}
    (hs : ∀ y, A.holds y → StartOk cfg (.read addr reg len) y.clock y.log)
    (h : ∀ y r, A.holds y → B.holds ((y.note (.busEnd y.clock (.read addr reg len) r)).setBuf dst addr (r.bytes len)))
    (hl : ∀ l, course = .goto l → ∀ y, (lab l).holds y) :
    Triple cfg clean lab A (.busRead addr reg len dst course) B := by
  refine .of_acts (.bus hs (.single fun y z hg hA hz => ?_)) (fun _ => rfl) nofun
  obtain ⟨r, rest, -, hend⟩ := System.endBus_read_ok hz
  have hB := h _ r (A.control y.pos y.todo rest y.resets hA)
  have hgood := (hg.busEnd rest (.read addr reg len) r).setBuf dst addr (r.bytes len)
  rcases hend with ⟨bs, -, rfl⟩ | ⟨bs, -, hz⟩
  · exact runs_next hgood hB rfl rfl rfl
  · rcases System.follow_ok hz with ⟨-, rfl⟩ | ⟨label, hcourse, hz⟩
    · exact runs_next hgood hB rfl rfl rfl
    · exact (runs_jump hgood (hl label hcourse _) hz).of_same rfl rfl rfl

/-- A write of the bus whose failure ends the sequence it stands in. -/
theorem triple_busWrite {addr : Addr} {reg : Byte} {bytes : List Byte} {label : Nat}
    (hs : ∀ y, A.holds y → StartOk cfg (.write addr reg bytes) y.clock y.log)
    (h : ∀ y, A.holds y → B.holds (y.note (.busEnd y.clock (.write addr reg bytes) .accepted)))
    (hl : ∀ y, (lab label).holds y) :
    Triple cfg clean lab A (.busWrite addr reg bytes (.goto label)) B := by
  refine .of_acts (.bus hs (.single fun y z hg hA hz => ?_)) (fun _ => rfl) nofun
  obtain ⟨r, rest, -, hend⟩ := System.endBus_write_ok hz
  have hgood := hg.busEnd rest (.write addr reg bytes) r
  rcases hend with ⟨rfl, rfl⟩ | ⟨-, why, hz⟩
  · exact runs_next hgood (h _ (A.control y.pos y.todo rest y.resets hA)) rfl rfl rfl
  · exact (runs_jump hgood (hl _) hz).of_same rfl rfl rfl

end Sys2Proof.Machine
end

section
/-! Proof outlines of the host's sequences for the humidity and the colour device (70_reset_and_hazards.md R212 to R214, R220). -/

namespace Sys2Proof.Machine

open Sensor

variable {cfg : Params} {clean : Prop} {lab : Nat → Assertion} {A B : Assertion}

/-! ## Assertions about a sensor and its input -/

/-- Both. -/
def Assertion.and (A B : Assertion) : Assertion where
  holds y := A.holds y ∧ B.holds y
  control _ _ _ _ h := ⟨A.control _ _ _ _ h.1, B.control _ _ _ _ h.2⟩
  reset h := ⟨A.reset h.1, B.reset h.2⟩
  start _ h := ⟨A.start _ h.1, B.start _ h.2⟩

/-- The device's initialisation has come so far. -/
def initAt (dev : Device) (Q : InitState → Prop) : Assertion :=
  .ofView (fun _ _ log => Q (initOf dev log)) (fun _ _ _ h => h) (fun _ _ _ _ h => h)

/-- The host has a handle for the device. -/
def handle (dev : Device) : Assertion := initAt dev (· = .ready)

/-- `ms` milliseconds of waits have gone by since the device accepted the call. -/
def waited (dev : Device) (call : BusCall) (ms : Nat) : Assertion :=
  .ofView (fun _ now log => ∃ t, lastAccepted dev (· == call) log = some t ∧ t + ms ≤ now) (fun _ _ _ h => h) (fun _ _ _ _ h => h)

/-- A fetch of the input has begun and has read nothing. -/
def begun (inp : Input) : Assertion :=
  .ofView (fun _ _ log => fetchReads inp log = [])
    (fun _ _ _ h => (quiet_reset inp).fetchReads_eq.trans h)
    (fun _ _ _ _ h => (quiet_busStart inp _ _).fetchReads_eq.trans h)

/-- A fetch of the device's sample has begun, and the host has a handle for the device. -/
def reading (dev : Device) : Assertion := (begun (.sample dev)).and (handle dev)

/-- The bytes of these buffers, together. -/
def sizeOf (bufs : Nat → List Byte) (names : List Nat) : Nat := (names.map fun n => (bufs n).length).sum

/-- What the fetch of the input has received stands in these buffers. -/
def fetched (inp : Input) (Q : InitState → Prop) (names : List Nat) : Assertion :=
  .ofView (fun bufs _ log => Q (initOf inp.dev log) ∧ Held inp (sizeOf bufs names) log)
    (fun _ _ _ h => ⟨h.1, h.2.of_quiet (quiet_reset inp)⟩)
    (fun _ _ _ _ h => ⟨h.1, h.2.of_quiet (quiet_busStart inp _ _)⟩)

/-- The host may issue a command that reads the input. -/
def readable (inp : Input) (Q : InitState → Prop) : Assertion :=
  .ofView (fun _ _ log => Q (initOf inp.dev log) ∧ mayRead inp log = true)
    (fun _ _ _ h => ⟨h.1, (mayRead_of_quiet (quiet_reset inp) rfl).trans h.2⟩)
    (fun _ _ _ _ h => ⟨h.1, (mayRead_of_quiet (quiet_busStart inp _ _) rfl).trans h.2⟩)

/-- `n` bytes of the input are held. -/
def held (inp : Input) (Q : InitState → Prop) (n : Nat) : Assertion :=
  .ofView (fun _ _ log => Q (initOf inp.dev log) ∧ Held inp n log)
    (fun _ _ _ h => ⟨h.1, h.2.of_quiet (quiet_reset inp)⟩)
    (fun _ _ _ _ h => ⟨h.1, h.2.of_quiet (quiet_busStart inp _ _)⟩)

/-! ## Rules about a sensor and its input -/

theorem System.bytes_bufs_length (y : System) (names : List Nat) :
    (y.bytes (names.map .buf)).length = sizeOf y.buf names := by
  rw [System.bytes, sizeOf, List.flatMap_map, List.length_flatMap]

/-- LDBUF of the buffers of a fetch: the input may be read. -/
theorem triple_ldbuf_fetched (inp : Input) (Q : InitState → Prop) (names : List Nat) :
    Triple cfg clean lab (fetched inp Q names) (.ldbuf (names.map .buf)) (readable inp Q) := by
  refine triple_ldbuf (held inp Q) (fun y ⟨hQ, hheld⟩ => ⟨hQ, ?_⟩) (fun n y s k v err ⟨hQ, hheld⟩ => ⟨hQ, ?_⟩)
    (fun n y s err hle ⟨hQ, hheld⟩ => ⟨hQ, ?_⟩)
  · rw [y.bytes_bufs_length]; exact hheld
  · exact hheld.of_quiet (quiet_access inp _ _)
  · exact hheld.mayRead_length hle err

/-- A block read of a device reads every register from the first on. -/
theorem covers_block (addr : Addr) (reg : Byte) (n : Nat) :
    ((List.range n).map (reg.toNat + ·)).all ((BusCall.read addr reg n).covers n) = true := by
  simp [BusCall.covers]

/-- One read asks for the whole input, its registers being those from `reg` on. -/
theorem triple_busRead_whole {inp : Input} {Q : InitState → Prop} {reg : Byte} {len dst : Nat} {course : Course}
    (hregs : inp.registers = (List.range inp.length).map (reg.toNat + ·)) (hlen : inp.length = len) (hpos : 0 < len)
    (hs : ∀ y, A.holds y → StartOk cfg (.read (.device inp.dev) reg len) y.clock y.log)
    (hA : ∀ y, A.holds y → (begun inp).holds y ∧ Q (initOf inp.dev y.log))
    (hl : ∀ l, course = .goto l → ∀ y, (lab l).holds y) :
    Triple cfg clean lab A (.busRead (.device inp.dev) reg len dst course) (fetched inp Q [dst]) := by
  subst hlen
  have hcover := covers_block (.device inp.dev) reg inp.length
  have hreads : (BusCall.read (.device inp.dev) reg inp.length).reads inp = true := by
    refine Bool.and_eq_true_iff.2 ⟨beq_self_eq_true _, List.any_eq_true.2 ⟨reg.toNat, ?_, ?_⟩⟩
    · rw [hregs, List.mem_map]; exact ⟨0, List.mem_range.2 hpos, rfl⟩
    · simpa [BusCall.covers, BusCall.asked] using hpos
  refine triple_busRead hs (fun y r hy => ?_) hl
  obtain ⟨hbegun, hQ⟩ := hA y hy
  refine ⟨hQ, ?_⟩
  have hfetch := fetchReads_busEnd y.clock r hbegun hreads rfl
  have hheld := held_of_fetchReads hfetch (fun p hp => ?_) (by simp [BusCall.asked]) ?_
  · simpa [sizeOf, BusCall.asked] using hheld
  · rw [List.mem_singleton.1 hp]; exact r.bytes_length_le _
  · simpa [hregs, BusCall.asked] using hcover

theorem sampleCourse_goto {report : Bool} {skip l : Nat} (h : sampleCourse report skip = .goto l) : l = skip := by
  cases report <;> cases h
  rfl

/-- A command that reads the sample of a device the host has a handle for. -/
theorem commandOk_sample {dev : Device} {i : Instr} {log : List HostEvent} (hdev : commandDevices log i = [dev])
    (hinp : commandInputs log i = [.sample dev]) (hready : initOf dev log = .ready) (hread : mayRead (.sample dev) log = true)
    (hreload : ∀ slot, i = .compPt slot → loadedIn cfg slot log = true) : CommandOk cfg i log where
  contract d hd := by
    rw [hdev, List.mem_singleton] at hd
    rw [hd, hready]
    exact ⟨nofun, fun _ => handleIn_eq_true.2 hready⟩
  inputs inp hi := by
    rw [hinp, List.mem_singleton] at hi
    rw [hi]; exact hread
  reloaded := hreload

/-- A command leaves the sample as readable as it was. -/
theorem readable_access {inp : Input} {Q : InitState → Prop} {y : System} (h : (readable inp Q).holds y) (i : Instr) (s : State) :
    (readable inp Q).holds ({ y with scp := s }.note (.access (cmdWrite (encode i)) s.err)) :=
  ⟨h.1, (mayRead_of_quiet (quiet_access inp _ _) rfl).trans h.2⟩

theorem triple_cmd_sample {dev : Device} {i : Instr} (hi : ∀ slot, i ≠ .calRelease slot ∧ i ≠ .compPt slot)
    (hdev : ∀ log, commandDevices log i = [dev]) (hinp : ∀ log, commandInputs log i = [.sample dev]) :
    Triple cfg clean lab (readable (.sample dev) (· = .ready)) (.cmd i) (readable (.sample dev) (· = .ready)) :=
  triple_cmd (fun slot => (hi slot).1)
    (fun _ ⟨hready, hread⟩ => commandOk_sample (hdev _) (hinp _) hready hread fun slot he => absurd he (hi slot).2)
    (fun _ s _ hy _ => readable_access hy i s)

/-- A read of a device goes on only with a handle for it. -/
theorem triple_needsHandle {dev : Device} {skip : Nat} (hl : ∀ y, A.holds y → handleIn y.log dev = false → (lab skip).holds y)
    (h : ∀ y, A.holds y → initOf dev y.log = .ready → B.holds y) : Triple cfg clean lab A (needsHandle dev skip) B := by
  refine triple_ifGoto (fun y _ hy hc => hl y hy ?_) (fun y _ hy hc => h y hy ?_)
  · simpa [System.holds] using hc
  · simpa [System.holds, handleIn_eq_true] using hc

/-- An initialisation ends: `B` holds after it, with a handle or without. -/
theorem outline_initEnd {dev : Device} {fail done : Nat}
    (hd : ∀ y, A.holds y → ∀ slot, dev = .pt slot → loadedSince cfg slot y.log = true)
    (hhandle : ∀ y, A.holds y → B.holds (y.note (.initialised dev .handle)))
    (herror : ∀ y : System, B.holds (y.note (.initialised dev .configurationError))) (hdone : lab done = B) :
    Outline cfg clean lab A (initEnd dev fail done) B := by
  refine .cons (B := B) (triple_initialised (fun y hy slot he _ => hd y hy slot he) hhandle) ?_
  refine .cons (B := .trivial) (triple_goto fun y hy => by rw [hdone]; exact hy) ?_
  refine .cons (B := .trivial) (triple_label (fun _ _ => True.intro) fun _ _ => True.intro) ?_
  refine .cons (B := B) (triple_initialised (fun _ _ _ _ he => nomatch he) fun y _ => herror y) ?_
  exact .cons (triple_label (fun _ h => h) fun y h => by rw [hdone] at h; exact h) (.nil _)

/-- A transaction with a sensor that is no pressure device needs no slot. -/
theorem usesPt_of_addr {call : BusCall} {dev : Device} {slot : Fin 4} (ha : call.addr = .device dev) (hd : dev ≠ .pt slot) :
    call.usesPt slot = false := by
  have hne : (call.addr == .device (.pt slot)) = false := by rw [ha]; exact beq_eq_false_iff_ne.2 fun h => hd (Addr.device.inj h)
  cases call with
  | read addr reg len => exact Bool.and_eq_false_iff.2 (.inl hne)
  | write addr reg bytes => exact Bool.and_eq_false_iff.2 (.inl hne)

theorem lastAccepted_now (dev : Device) (call : BusCall) (now : Nat) (log : List HostEvent) :
    lastAccepted dev (· == call) (.busEnd now call .accepted :: log) = some now := by
  simp [lastAccepted]

/-- A call that the device has just accepted: the wait after it begins. -/
theorem waited_now (dev : Device) (call : BusCall) (y : System) :
    (waited dev call 0).holds (y.note (.busEnd y.clock call .accepted)) :=
  ⟨y.clock, lastAccepted_now dev call y.clock y.log, Nat.le_refl _⟩

theorem waited.wait {dev : Device} {call : BusCall} {ms n : Nat} {y : System} (h : (waited dev call 0).holds y) (hle : ms ≤ n) :
    (waited dev call ms).holds { y with clock := y.clock + n } := by
  obtain ⟨t, ht, hnow⟩ := h
  have hnow : t + ms ≤ y.clock + n := by omega
  exact ⟨t, ht, hnow⟩

theorem waited.any {dev : Device} {call : BusCall} {ms : Nat} {y : System} (h : (waited dev call ms).holds y) :
    (lastAccepted dev (· == call) y.log).any (· + ms ≤ y.clock) = true ∧
      (lastAccepted dev (· == call) y.log).all (· + ms ≤ y.clock) = true := by
  obtain ⟨t, ht, hnow⟩ := h
  rw [ht]
  exact ⟨decide_eq_true hnow, decide_eq_true hnow⟩

/-! ## The humidity device -/

/-- The humidity device has not been triggered. -/
def rhIdle : Assertion :=
  .ofView (fun _ _ log => lastAccepted .rh (· == rhTrigger) log = none) (fun _ _ _ h => h) (fun _ _ _ _ h => h)

/-- A read of the humidity device asks nothing of its label. -/
def rhLabels : Nat → Assertion := fun _ => .trivial

theorem rhTrigger_startOk {y : System} (h : rhIdle.holds y) : StartOk cfg rhTrigger y.clock y.log where
  waited := rfl
  measured _ := by rw [show lastAccepted .rh (· == rhTrigger) y.log = none from h]; rfl
  loaded slot hu := by rw [usesPt_of_addr (dev := .rh) rfl nofun] at hu; cases hu

theorem rhRead_startOk {y : System} (h : (waited .rh rhTrigger 15).holds y) (reg : Byte) (len : Nat) :
    StartOk cfg (.read (.device .rh) reg len) y.clock y.log where
  waited := (waited.any h).1
  measured _ := (waited.any h).2
  loaded slot hu := by rw [usesPt_of_addr (dev := .rh) rfl nofun] at hu; cases hu

theorem outline_initRh : Outline cfg clean rhLabels rhIdle initRh rhIdle := by
  refine .cons (B := rhIdle) (triple_initialise fun _ h => h) ?_
  exact .cons (triple_initialised (fun _ _ _ he => nomatch he) fun _ h => h) (.nil _)

/-- The optional check of the checksums. -/
theorem outline_crcCheck (check : Bool) :
    Outline cfg clean lab (readable (.sample .rh) (· = .ready)) (if check then [.cmd .crcRh] else [])
      (readable (.sample .rh) (· = .ready)) := by
  cases check with
  | true => exact .cons (triple_cmd_sample (fun _ => ⟨nofun, nofun⟩) (fun _ => rfl) (fun _ => rfl)) (.nil _)
  | false => exact .nil _

theorem outline_readRh (check report : Bool) : Outline cfg clean rhLabels rhIdle (readRh check report 0) .trivial := by
  refine (Outline.append ?_ (outline_crcCheck check)).append
    (.cons (triple_label (fun _ _ => True.intro) fun _ _ => True.intro) (.nil _))
  refine .cons (B := rhIdle.and (begun (.sample .rh))) (triple_fetch fun _ h => ⟨h, fetchReads_fetch _ _⟩) ?_
  refine .cons (B := rhIdle.and (reading .rh))
    (triple_needsHandle (fun _ _ _ => True.intro) fun _ ⟨hidle, hbegun⟩ hready => ⟨hidle, hbegun, hready⟩) ?_
  refine .cons (B := (waited .rh rhTrigger 0).and (reading .rh))
    (triple_busWrite (fun _ h => rhTrigger_startOk h.1) (fun y ⟨_, hbegun, hready⟩ => ⟨waited_now _ _ y, ?_, ?_⟩)
      fun _ => True.intro) ?_
  · exact (fetchReads_busEnd_write _ _ _ _ _).trans hbegun
  · exact handleIn_eq_true.1 (handleIn_busEnd _ _ _ (handleIn_eq_true.2 hready))
  refine .cons (B := (waited .rh rhTrigger 15).and (reading .rh))
    (triple_wait fun _ ⟨hwaited, hread⟩ => ⟨waited.wait hwaited (Nat.le_add_right _ _), hread⟩) ?_
  refine .cons (B := fetched (.sample .rh) (· = .ready) [0])
    (triple_busRead_whole (inp := .sample .rh) rfl rfl (by decide) (fun _ h => rhRead_startOk h.1 _ _) (fun _ h => h.2)
      fun _ _ _ => True.intro) ?_
  refine .cons (triple_ldbuf_fetched _ _ [0]) ?_
  exact .cons (triple_cmd_sample (fun _ => ⟨nofun, nofun⟩) (fun _ => rfl) (fun _ => rfl)) (.nil _)

/-! ## The colour device -/

/-- The colour device has settled where the host has a handle for it. -/
def luxSettled : Assertion :=
  .ofView (fun _ now log => initOf .lux log = .ready → ∃ t, lastAccepted .lux (· == luxGainWrite) log = some t ∧ t + 10 ≤ now)
    (fun _ _ _ h => h) (fun _ _ _ _ h => h)

/-- What the labels of the colour device's sequences ask: the end of the initialisation, that the device has settled. -/
def luxLabels : Nat → Assertion
  | 1 => luxSettled
  | _ => .trivial

theorem lux_startOk {call : BusCall} {now : Nat} {log : List HostEvent} (ha : call.addr = .device .lux)
    (hw : waitOk call now log = true) : StartOk cfg call now log where
  waited := hw
  measured h := nomatch ha.symm.trans h
  loaded slot hu := by rw [usesPt_of_addr ha nofun] at hu; cases hu

theorem outline_initLux : Outline cfg clean luxLabels .trivial (initLux 0 1) luxSettled := by
  refine .cons (B := .trivial) (triple_initialise fun _ h => h) ?_
  refine .cons (B := waited .lux luxPowerOnWrite 0)
    (triple_busWrite (fun _ _ => lux_startOk rfl rfl) (fun y _ => waited_now _ _ y) fun _ => True.intro) ?_
  refine .cons (B := waited .lux luxPowerOnWrite 3) (triple_wait fun _ h => waited.wait h (Nat.le_add_right _ _)) ?_
  refine .cons (B := .trivial)
    (triple_busWrite (fun _ h => lux_startOk rfl (waited.any h).1) (fun _ _ => True.intro) fun _ => True.intro) ?_
  refine .cons (B := .trivial)
    (triple_busWrite (fun _ _ => lux_startOk rfl rfl) (fun _ _ => True.intro) fun _ => True.intro) ?_
  refine .cons (B := waited .lux luxGainWrite 0)
    (triple_busWrite (fun _ _ => lux_startOk rfl rfl) (fun y _ => waited_now _ _ y) fun _ => True.intro) ?_
  refine .cons (B := waited .lux luxGainWrite 10) (triple_wait fun _ h => waited.wait h (Nat.le_add_right _ _)) ?_
  refine outline_initEnd (fun _ _ _ he => nomatch he) (fun _ h _ => h) (fun y hready => ?_) rfl
  exact absurd (handleIn_eq_true.2 hready) (by rw [System.note_log, handleIn_configurationError]; exact Bool.false_ne_true)

theorem outline_readLux (report : Bool) : Outline cfg clean luxLabels luxSettled (readLux report 2) .trivial := by
  refine .cons (B := luxSettled.and (begun (.sample .lux))) (triple_fetch fun _ h => ⟨h, fetchReads_fetch _ _⟩) ?_
  refine .cons (B := (waited .lux luxGainWrite 10).and (reading .lux))
    (triple_needsHandle (fun _ _ _ => True.intro) fun _ ⟨hsettled, hbegun⟩ hready => ⟨hsettled hready, hbegun, hready⟩) ?_
  refine .cons (B := fetched (.sample .lux) (· = .ready) [0])
    (triple_busRead_whole (inp := .sample .lux) rfl rfl (by decide) (fun _ h => lux_startOk rfl (waited.any h.1).1) (fun _ h => h.2)
      fun l hl _ => ?_) ?_
  · rw [sampleCourse_goto hl]; exact True.intro
  refine .cons (triple_ldbuf_fetched _ _ [0]) ?_
  refine .cons (triple_cmd_sample (fun _ => ⟨nofun, nofun⟩) (fun _ => rfl) (fun _ => rfl)) ?_
  exact .cons (triple_label (fun _ _ => True.intro) fun _ _ => True.intro) (.nil _)

/-- A run of an outlined program keeps the duties. -/
theorem Outline.run_dutiesKept {s : State} {prog : List Stmt} (h : Outline s.cfg False lab A prog B) (replies : List BusReply)
    (resets : List Bool) (hA : A.holds (System.start s prog replies resets)) (k : Nat) :
    dutiesKept s.cfg (System.run k (System.start s prog replies resets)).log = true :=
  (h.run_good replies False.elim hA k).conduct.dutiesKept (System.run_serialised s prog replies resets k)

/-- Settles O59, by a proof outline of each sequence. -/
theorem hostSequencesKeepTheirWaits : Obligations.HostSequencesKeepTheirWaits := by
  unfold Obligations.HostSequencesKeepTheirWaits
  exact fun check report s replies resets k =>
    ⟨(outline_initRh.append (outline_readRh check report)).run_dutiesKept replies resets rfl k,
      (outline_initLux.append (outline_readLux report)).run_dutiesKept replies resets True.intro k⟩

end Sys2Proof.Machine
end

section
/-! Proof outline of the host's sequences for a pressure device: initialisation, reload and read (41_calibration.md R114;
70_reset_and_hazards.md R202, R211, R214). -/

namespace Sys2Proof.Machine

open Sensor

variable {cfg : Params} {clean : Prop} {lab : Nat → Assertion} {A B : Assertion} {slot : Fin 4}

/-! ## What the host knows of a slot -/

/-- The latest CAL_LOAD of the slot has succeeded. -/
def ptLoaded (cfg : Params) (slot : Fin 4) : Assertion :=
  .ofView (fun _ _ log => loadedSince cfg slot log = true) (fun _ _ _ h => h) (fun _ _ _ _ h => h)

/-- The latest CAL_LOAD of the slot has succeeded, or the host knows of a reset that it has not loaded the slot after. -/
def ptKnown (cfg : Params) (slot : Fin 4) : Assertion :=
  .ofView (fun _ _ log => loadedSince cfg slot log = true ∨ loadedIn cfg slot log = false) (fun _ _ _ _ => .inr rfl)
    (fun _ _ _ _ h => h)

/-- The same, or STATUS.ERR holds an error. -/
def ptAnswered (cfg : Params) (slot : Fin 4) : Assertion where
  holds y := (ptKnown cfg slot).holds y ∨ y.scp.err ≠ .ok
  control _ _ _ _ h := h
  reset _ := .inl (.inr rfl)
  start _ h := h

/-- The same, or the STATUS read into the variable has an error code. -/
def ptRead (cfg : Params) (slot : Fin 4) (dst : Nat) : Assertion where
  holds y := (ptKnown cfg slot).holds y ∨ y.var dst % 16 ≠ 0
  control _ _ _ _ h := h
  reset _ := .inl (.inr rfl)
  start _ h := h

/-- A handle tells that the latest CAL_LOAD of the slot has succeeded. -/
def ptUsable (cfg : Params) (slot : Fin 4) : Assertion :=
  .ofView (fun _ _ log => initOf (.pt slot) log = .ready → loadedSince cfg slot log = true) (fun _ _ _ h => h) (fun _ _ _ _ h => h)

/-- A handle tells the same, unless the host knows of a reset that it has not loaded the slot after. -/
def ptReloaded (cfg : Params) (slot : Fin 4) : Assertion where
  holds y := initOf (.pt slot) y.log = .ready → (ptKnown cfg slot).holds y
  control _ _ _ _ h := h
  reset _ := fun _ => .inr rfl
  start _ h := h

/-- The host may use the device: it has a handle, and the latest CAL_LOAD of the slot has succeeded. -/
def ptInUse (cfg : Params) (slot : Fin 4) : Assertion := (handle (.pt slot)).and (ptLoaded cfg slot)

/-- What the labels of the pressure device's sequences ask: what the ends of the initialisation and of the reload leave. -/
def ptLabels (cfg : Params) (slot : Fin 4) : Nat → Assertion
  | 1 => ptUsable cfg slot
  | 3 => ptReloaded cfg slot
  | _ => .trivial

/-- An initialisation that ends with a ConfigurationError leaves the device not ready. -/
theorem not_ready_configurationError (dev : Device) (log : List HostEvent) :
    initOf dev (.initialised dev .configurationError :: log) ≠ .ready := fun h =>
  absurd (handleIn_eq_true.2 h) (by rw [handleIn_configurationError]; exact Bool.false_ne_true)

/-! ## Transactions with a pressure device -/

theorem pt_startOk {call : BusCall} {now : Nat} {log : List HostEvent} (ha : call.addr = .device (.pt slot))
    (hw : waitOk call now log = true) (hl : call.usesPt slot = true → loadedSince cfg slot log = true) :
    StartOk cfg call now log where
  waited := hw
  measured h := nomatch ha.symm.trans h
  loaded k hu := by
    by_cases hk : slot = k
    · rw [← hk] at hu ⊢; exact hl hu
    · rw [usesPt_of_addr ha fun h => hk (Device.pt.inj h)] at hu; cases hu

/-- The calibration block stands below the results. -/
theorem usesPt_calibration (slot : Fin 4) : (BusCall.read (.device (.pt slot)) ptCal ptCalLen).usesPt slot = false :=
  Bool.and_eq_false_iff.2 (.inr rfl)

theorem calibration_startOk (slot : Fin 4) (now : Nat) (log : List HostEvent) :
    StartOk cfg (.read (.device (.pt slot)) ptCal ptCalLen) now log :=
  pt_startOk rfl rfl fun hu => by rw [usesPt_calibration] at hu; cases hu

/-! ## CAL_LOAD and its code -/

/-- A CAL_LOAD that ends with OK has named a slot that exists. -/
theorem command_of_calLoad_ok {s t : State} (hs : serve (cmdWrite (encode (.calLoad slot))) s = .next t) (hok : t.err = .ok) :
    (cmdWrite (encode (.calLoad slot))).command s.cfg = some (.calLoad slot) := by
  cases hw : (Instr.calLoad slot).wf s.cfg with
  | true => exact command_cmdWrite_of_wf hw
  | false =>
    have hraise : execute (encode (.calLoad slot)) s = raise .illegalCmd s := by
      rw [execute, decode_of_ill_formed (parse_encode _) hw]
    rw [serve_cmdWrite, hraise] at hs
    rw [← Host.Outcome.next.inj hs] at hok
    cases hok

theorem ptAnswered_calLoad {y : System} {s : State} (hcfg : y.scp.cfg = cfg)
    (hs : serve (cmdWrite (encode (.calLoad slot))) y.scp = .next s) :
    (ptAnswered cfg slot).holds ({ y with scp := s }.note (.access (cmdWrite (encode (.calLoad slot))) s.err)) := by
  by_cases hok : s.err = .ok
  · refine .inl (.inl ?_)
    rw [System.note_log, loadedSince, if_pos (by rw [← hcfg]; exact command_of_calLoad_ok hs hok), hok]
    rfl
  · exact .inr hok

/-- Bits [3:0] of STATUS are the code in ERR. -/
theorem State.status_err (s : State) : s.status.toNat % 16 = s.err.code.toNat := by
  have h : (s.status.extractLsb' 0 4).toNat = s.err.code.toNat :=
    congrArg BitVec.toNat BitVec.extractLsb'_append_eq_right
  rw [← h, BitVec.extractLsb'_toNat, Nat.shiftRight_zero]

theorem ErrCode.code_ne_zero {e : ErrCode} (h : e ≠ .ok) : e.code.toNat ≠ 0 := by
  cases e with
  | ok => exact absurd rfl h
  | _ => decide

/-- What a read of STATUS returns. -/
theorem lastRead_status {s t : State} (h : serve (.read Reg.status.offset) s = .next t) : t.lastRead = s.status := by
  have hread : serve (.read Reg.status.offset) s = .next (s.observe s.status) := by
    rw [serve, hostRead, if_pos Reg.status.offset_aligned, s.readAt_offset (r := .status) rfl]
    rfl
  rw [← Host.Outcome.next.inj (hread.symm.trans h)]
  simp [State.lastRead, State.observe]

theorem ptKnown_access {y : System} (h : (ptKnown cfg slot).holds y) {e : PortEvent} (he : e.command cfg = none) (s : State)
    (err : ErrCode) : (ptKnown cfg slot).holds ({ y with scp := s }.note (.access e err)) := by
  have hsince : loadedSince cfg slot (.access e err :: y.log) = loadedSince cfg slot y.log := by simp [loadedSince, he]
  have hin : loadedIn cfg slot (.access e err :: y.log) = loadedIn cfg slot y.log := by simp [loadedIn, he]
  exact h.imp hsince.trans hin.trans

theorem ptRead_status {y : System} {s : State} (h : (ptAnswered cfg slot).holds y) (dst : Nat)
    (hs : serve (.read Reg.status.offset) y.scp = .next s) :
    (ptRead cfg slot dst).holds (y.afterRead Reg.status.offset dst s) := by
  refine h.imp (fun hknown => ptKnown_access hknown rfl s s.err) fun herr => ?_
  have hvar : (y.afterRead Reg.status.offset dst s).var dst = y.scp.status.toNat := by
    simp [System.var, System.afterRead, lastRead_status hs]
  rw [hvar, State.status_err]
  exact ErrCode.code_ne_zero herr

/-- The calibration block is fetched and loaded, and STATUS.ERR holds the code of its CAL_LOAD unless the block has been reset. -/
theorem outline_loadPt (hA : ∀ y, A.holds y → initOf (.pt slot) y.log ≠ .failed) :
    Outline cfg clean lab A (loadPt slot) (ptAnswered cfg slot) := by
  refine .cons (B := (begun (.calibration slot)).and (initAt (.pt slot) (· ≠ .failed)))
    (triple_fetch fun y hy => ⟨fetchReads_fetch _ _, hA y hy⟩) ?_
  refine .cons (B := fetched (.calibration slot) (· ≠ .failed) [0])
    (triple_busRead_whole (inp := .calibration slot) rfl rfl (by decide)
      (fun y _ => calibration_startOk slot y.clock y.log) (fun _ h => h) nofun) ?_
  refine .cons (triple_ldbuf_fetched _ _ [0]) ?_
  refine .cons (triple_cmd (fun _ => nofun) (fun y ⟨hinit, hread⟩ => ?_) fun y s hg _ hs => ptAnswered_calLoad hg.cfg_eq hs) (.nil _)
  exact ⟨fun dev hd => by rw [List.mem_singleton.1 hd]; exact ⟨hinit, nofun⟩,
    fun inp hi => by rw [List.mem_singleton.1 hi]; exact hread, nofun⟩

/-- BERR after the CAL_LOAD: the slot is loaded, or the host knows of a reset. -/
theorem triple_berr_answered {fail : Nat} (hl : ∀ y, (lab fail).holds y) :
    Triple cfg clean lab (ptAnswered cfg slot) (.berr 0 fail) (ptKnown cfg slot) := by
  refine triple_berr (ptRead cfg slot 0) (fun _ _ hy hs => ptRead_status hy 0 hs) (fun y _ => hl y) fun y hy hc => ?_
  refine hy.resolve_right fun hvar => hvar ?_
  simpa [System.holds, errCond, Cond.ne, System.value] using hc

/-- A slot that needs no reload is loaded. -/
theorem ptLoaded_of_known {y : System} (hg : Good cfg clean y) (hy : (ptKnown cfg slot).holds y)
    (hc : y.holds (.not (.loaded slot)) = false) : (ptLoaded cfg slot).holds y :=
  hy.resolve_right fun hnot => by simp [System.holds, hg.cfg_eq, hnot] at hc

/-! ## The sequences -/

theorem outline_initPt : Outline cfg clean (ptLabels cfg slot) .trivial (initPt slot 0 1) (ptUsable cfg slot) := by
  have hload : Outline cfg clean (ptLabels cfg slot) .trivial ([.initialise (.pt slot)] ++ loadPt slot) (ptAnswered cfg slot) := by
    refine .cons (B := initAt (.pt slot) (· = .running)) (triple_initialise fun y _ => initOf_initialise _ y.log) ?_
    exact outline_loadPt fun y hy => by rw [show initOf (.pt slot) y.log = .running from hy]; nofun
  refine (hload.append (C := ptLoaded cfg slot) ?_).append (outline_initEnd (fun y hy k he => ?_) (fun _ hy _ => hy)
    (fun y hready => absurd hready (not_ready_configurationError _ _)) rfl)
  · refine .cons (triple_berr_answered fun _ => True.intro) ?_
    refine .cons (B := ptLoaded cfg slot) (triple_ifGoto (fun _ _ _ _ => True.intro) fun y hg => ptLoaded_of_known hg) ?_
    exact .cons (triple_busWrite (fun _ hy => pt_startOk rfl rfl fun _ => hy) (fun _ hy => hy) fun _ => True.intro) (.nil _)
  · rw [← Device.pt.inj he]; exact hy

theorem outline_reloadPt : Outline cfg clean (ptLabels cfg slot) (ptUsable cfg slot) (reloadPt slot 2 3) (ptReloaded cfg slot) := by
  have hload : Outline cfg clean (ptLabels cfg slot) (ptUsable cfg slot)
      ([needsHandle (.pt slot) 3, .ifGoto (.loaded slot) 3] ++ loadPt slot) (ptAnswered cfg slot) := by
    refine .cons (B := ptInUse cfg slot)
      (triple_needsHandle (fun y _ hno hready => absurd (handleIn_eq_true.2 hready) (by rw [hno]; exact Bool.false_ne_true))
        fun _ hy hready => ⟨hready, hy hready⟩) ?_
    refine .cons (B := handle (.pt slot)) (triple_ifGoto (fun _ _ hy _ _ => .inl hy.2) fun _ _ hy _ => hy.1) ?_
    exact outline_loadPt fun y hy => by rw [show initOf (.pt slot) y.log = .ready from hy]; nofun
  refine hload.append ?_
  refine .cons (triple_berr_answered fun _ => True.intro) ?_
  refine .cons (B := .trivial) (triple_goto fun _ hy _ => hy) ?_
  refine .cons (B := .trivial) (triple_label (fun _ _ => True.intro) fun _ _ => True.intro) ?_
  refine .cons (B := ptReloaded cfg slot)
    (triple_initialised (fun _ _ _ _ he => nomatch he) fun _ _ hready => absurd hready (not_ready_configurationError _ _)) ?_
  exact .cons (triple_label (fun _ h => h) fun _ h => h) (.nil _)

/-- The read of the temperature result. -/
def ptTempRead (slot : Fin 4) : BusCall := .read (.device (.pt slot)) ptTemp 3

/-- The read of the pressure result. -/
def ptPresRead (slot : Fin 4) : BusCall := .read (.device (.pt slot)) ptPres 3

/-- The temperature bytes of the sample are held, and the device is in use. -/
def ptHalfRead (cfg : Params) (slot : Fin 4) : Assertion :=
  (ptInUse cfg slot).and <| .ofView
    (fun bufs _ log => fetchReads (.sample (.pt slot)) log = [(ptTempRead slot, (bufs 0).length)] ∧ (bufs 0).length ≤ 3)
    (fun _ _ _ h => ⟨(quiet_reset _).fetchReads_eq.trans h.1, h.2⟩)
    (fun _ _ _ _ h => ⟨(quiet_busStart _ _ _).fetchReads_eq.trans h.1, h.2⟩)

theorem reads_ptTemp (slot : Fin 4) : (ptTempRead slot).reads (.sample (.pt slot)) = true :=
  Bool.and_eq_true_iff.2 ⟨beq_self_eq_true _, rfl⟩

theorem reads_ptPres (slot : Fin 4) : (ptPresRead slot).reads (.sample (.pt slot)) = true :=
  Bool.and_eq_true_iff.2 ⟨beq_self_eq_true _, rfl⟩

theorem ptHalfRead_temp {y : System} (h : ((begun (.sample (.pt slot))).and (ptInUse cfg slot)).holds y) (r : BusReply) :
    (ptHalfRead cfg slot).holds ((y.note (.busEnd y.clock (ptTempRead slot) r)).setBuf 0 (.device (.pt slot)) (r.bytes 3)) := by
  obtain ⟨hbegun, huse⟩ := h
  refine ⟨huse, ?_, ?_⟩
  · rw [System.setBuf_buf]; exact fetchReads_busEnd y.clock r hbegun (reads_ptTemp slot) rfl
  · rw [System.setBuf_buf]; exact r.bytes_length_le 3

/-- Both halves of the sample: the temperature's registers stand above the pressure's. -/
theorem fetched_pres {y : System} (h : (ptHalfRead cfg slot).holds y) (r : BusReply) :
    (fetched (.sample (.pt slot)) (· = .ready) [0, 1]).holds
      ((y.note (.busEnd y.clock (ptPresRead slot) r)).setBuf 1 (.device (.pt slot)) (r.bytes 3)) := by
  obtain ⟨⟨hready, -⟩, htemp, hle⟩ := h
  refine ⟨hready, ?_⟩
  have hfetch := fetchReads_busEnd y.clock r htemp (reads_ptPres slot) rfl
  have hheld := held_of_fetchReads hfetch (fun p hp => ?_) rfl rfl
  · have hsize : sizeOf ((y.note (.busEnd y.clock (ptPresRead slot) r)).setBuf 1 (.device (.pt slot)) (r.bytes 3)).buf [0, 1] =
        (r.bytes 3).length + (y.buf 0).length := by
      rw [sizeOf, List.map_cons, List.map_cons, List.map_nil, System.setBuf_buf_ne _ _ _ (by decide), System.setBuf_buf,
        List.sum_cons, List.sum_cons, List.sum_nil, Nat.add_zero, Nat.add_comm]
      rfl
    rw [hsize]
    simpa [ptPresRead, BusCall.asked] using hheld
  · rcases List.mem_cons.1 hp with rfl | hp
    · exact r.bytes_length_le _
    · rw [List.mem_singleton.1 hp]; exact hle

/-- Reads of the results ask nothing of what follows. -/
theorem outline_readResults (k : Nat) :
    Outline cfg clean lab .trivial
      [.rd .status 0, .rd (.resLo 0) 1, .rd (.resHi 0) 2, .rd (.resLo 1) 3, .rd (.resHi 1) 4, .label k] .trivial := by
  have hrd (r : Reg) (dst : Nat) : Triple cfg clean lab .trivial (.rd r dst) .trivial := triple_rd fun _ _ _ => True.intro
  exact .cons (hrd _ _) (.cons (hrd _ _) (.cons (hrd _ _) (.cons (hrd _ _) (.cons (hrd _ _)
    (.cons (triple_label (fun _ h => h) fun _ _ => True.intro) (.nil _))))))

theorem outline_readPt (report : Bool) :
    Outline cfg clean (ptLabels cfg slot) (ptReloaded cfg slot) (readPt slot report 4) .trivial := by
  have hskip : ∀ l, sampleCourse report 4 = .goto l → ∀ y, (ptLabels cfg slot l).holds y := fun l hl _ => by
    rw [sampleCourse_goto hl]; exact True.intro
  refine .cons (B := (begun (.sample (.pt slot))).and (ptReloaded cfg slot)) (triple_fetch fun _ hy => ⟨fetchReads_fetch _ _, hy⟩) ?_
  refine .cons (B := (reading (.pt slot)).and (ptKnown cfg slot))
    (triple_needsHandle (fun _ _ _ => True.intro) fun _ ⟨hbegun, hy⟩ hready => ⟨⟨hbegun, hready⟩, hy hready⟩) ?_
  refine .cons (B := (begun (.sample (.pt slot))).and (ptInUse cfg slot))
    (triple_ifGoto (fun _ _ _ _ => True.intro) fun y hg ⟨⟨hbegun, hready⟩, hknown⟩ hc =>
      ⟨hbegun, hready, ptLoaded_of_known hg hknown hc⟩) ?_
  refine .cons (B := (begun (.sample (.pt slot))).and (ptInUse cfg slot)) (triple_wait fun _ hy => hy) ?_
  refine .cons (B := ptHalfRead cfg slot)
    (triple_busRead (fun _ ⟨_, _, hloaded⟩ => pt_startOk rfl rfl fun _ => hloaded) (fun _ r hy => ptHalfRead_temp hy r) hskip) ?_
  refine .cons (B := fetched (.sample (.pt slot)) (· = .ready) [0, 1])
    (triple_busRead (fun _ ⟨⟨_, hloaded⟩, _⟩ => pt_startOk rfl rfl fun _ => hloaded) (fun _ r hy => fetched_pres hy r) hskip) ?_
  refine .cons (triple_ldbuf_fetched _ _ [0, 1]) ?_
  refine .cons (B := .trivial)
    (triple_cmdIf (fun _ => nofun) (fun y hg ⟨hready, hread⟩ hc => ?_) (fun _ _ _ => True.intro) fun _ _ => True.intro) ?_
  · refine commandOk_sample (dev := .pt slot) rfl rfl hready hread fun k hk => ?_
    rw [← Instr.compPt.inj hk, ← hg.cfg_eq]
    exact hc
  exact outline_readResults 4

theorem outline_pt (cfg : Params) (clean : Prop) (slot : Fin 4) (report : Bool) :
    Outline cfg clean (ptLabels cfg slot) .trivial (initPt slot 0 1 ++ reloadPt slot 2 3 ++ readPt slot report 4) .trivial :=
  (outline_initPt.append outline_reloadPt).append (outline_readPt report)

/-! ## The control register and the slot -/

theorem any_loads_of_loadedSince {log : List HostEvent} (h : loadedSince cfg slot log = true) :
    log.any (·.loads cfg slot) = true := by
  induction log with
  | nil => cases h
  | cons e before ih =>
    rw [List.any_cons, Bool.or_eq_true]
    cases e with
    | access a err =>
      rw [loadedSince] at h
      split at h
      next hc => exact .inl (Bool.and_eq_true_iff.2 ⟨beq_iff_eq.2 hc, h⟩)
      next => exact .inr (ih h)
    | initialise dev =>
      rw [loadedSince] at h
      split at h
      next => cases h
      next => exact .inr (ih h)
    | _ => exact .inr (ih h)

/-- A transaction that needs the slot loaded comes after a CAL_LOAD that has ended with OK. -/
theorem any_loads_of_usesPt {log : List HostEvent} (h : loadsFirst cfg log = true) {now : Nat} {call : BusCall}
    (hm : .busStart now call ∈ log) (hu : call.usesPt slot = true) : log.any (·.loads cfg slot) = true := by
  induction log with
  | nil => cases hm
  | cons e before ih =>
    rw [loadsFirst, everyEvent_cons, ← loadsFirst, Bool.and_eq_true] at h
    rw [List.any_cons, Bool.or_eq_true]
    rcases List.mem_cons.1 hm with rfl | hm
    · have hnow := List.all_eq_true.1 h.1 slot (List.mem_finRange slot)
      rw [hu, Bool.not_true, Bool.false_or] at hnow
      exact .inr (any_loads_of_loadedSince hnow)
    · exact .inr (ih h.2 hm)

/-- With no reset on the way, a control register written means a slot loaded. -/
theorem Good.controlAfterLoad {y : System} (h : Good cfg True y) (slot : Fin 4) : y.ControlAfterLoad slot := by
  intro hw
  obtain ⟨e, hm, he⟩ := List.any_eq_true.1 hw
  split at he
  next now addr reg bytes => exact h.valid True.intro slot (any_loads_of_usesPt h.conduct.loads hm he)
  next => cases he

/-- Settles O60, by a proof outline of the three sequences. -/
theorem controlWriteComesAfterCalLoad : Obligations.ControlWriteComesAfterCalLoad := by
  unfold Obligations.ControlWriteComesAfterCalLoad
  refine fun slot report s replies k => ⟨fun resets => ⟨?_, ?_⟩, ?_⟩
  · exact (outline_pt s.cfg False slot report).run_dutiesKept replies resets True.intro k
  · exact ((outline_pt s.cfg False slot report).run_good replies False.elim True.intro k).conduct.handles
  · exact ((outline_pt s.cfg True slot report).run_good replies (fun _ => rfl) True.intro k).controlAfterLoad slot

end Sys2Proof.Machine
end
